-- ==== Sys2Proof/Word.lean ====
section
/-! DEFINITION. The machine words of RV32IMAC (spec/10_state.md R21, spec/20_memory.md R124): plain names for
bit vectors of the widths the spec uses. -/

namespace Sys2Proof

/-- A 32-bit register value or address (R21, R120). -/
abbrev Word := BitVec 32

/-- A 16-bit instruction parcel or halfword (R124, R160). -/
abbrev Half := BitVec 16

/-- A byte of memory (R124). -/
abbrev Byte := BitVec 8

/-- A 5-bit register number: value n names `x[n]` (R162). -/
abbrev Reg := BitVec 5

/-- A 3-bit register field of a compressed format: value f names `x[8 + f]` (R361). -/
abbrev CReg := BitVec 3

end Sys2Proof
end

