-- ==== Sys2Proof/Config.lean ====
section
/-! DEFINITION. What an implementation fixes (spec/00_scope.md R7) and the free values of the spec
(spec/93_implementation_defined.md U40 to U46). The parameters are one record of plain data, held in the state and
written by no step, so that every statement ranges over every configuration (log 1). -/

namespace Sys2Proof

/-- What lies in a region of the physical address space (R121). TIMER and ECLIC are not listed here: their ranges
follow from `timerBase` and `eclicBase`. -/
inductive RegionKind where
  /-- Loads return the last value stored; stores update; fetch allowed. -/
  | ram
  /-- Loads return fixed contents; a store is ignored or draws a bus error; fetch allowed. -/
  | rom
  /-- Another device: the environment answers loads and stores; `fetchable` says whether it lets the hart execute
  from it. -/
  | device (fetchable : Bool)
deriving DecidableEq, Repr

/-- One region of `MemMap` (R121): `size` bytes from `base`. -/
structure Region where
  base : Word
  size : Nat
  kind : RegionKind
deriving DecidableEq, Repr

/-- Does the region hold address `a`? -/
def Region.contains (r : Region) (a : Word) : Bool :=
  decide (r.base.toNat ≤ a.toNat) && decide (a.toNat < r.base.toNat + r.size)

/-- The parameters of R7, one field each, by the spec's names. `RESERVATION_GRANULE` is fixed at 4 there and has no
field. -/
structure Config where
  /-- `HAS_UMODE`: User Mode is implemented. -/
  hasUMode : Bool
  /-- `RESET_VECTOR`: pc after reset, and the NMI entry when `mmisc_ctl[9]` is 0. -/
  resetVector : Word
  /-- `TIMER_BASE`. -/
  timerBase : Word
  /-- `ECLIC_BASE`. -/
  eclicBase : Word
  /-- `NUM_INTERRUPT`, 0 to 4096. -/
  numInterrupt : Nat
  /-- `CLICINTCTLBITS`, 0 to 8: implemented high bits of each `clicintctl[i]`. -/
  clicIntCtlBits : Nat
  /-- `ECLIC_VERSION`, read in `clicinfo[20:13]`. -/
  eclicVersion : Byte
  /-- `MVENDORID`. -/
  mvendorid : Word
  /-- `MARCHID`. -/
  marchid : Word
  /-- `MIMPID`. -/
  mimpid : Word
  /-- `MHARTID`. -/
  mhartid : Word
  /-- `MISA_X`: misa bit 23. -/
  misaX : Bool
  /-- `MemMap`, but for the TIMER and the ECLIC. -/
  memMap : List Region
  /-- `BUS_ERROR_AS_EXCEPTION` (R131, R418). -/
  busErrorAsException : Bool
  /-- `MNXTI_RETURNS_ENTRY_ADDRESS` (R305). -/
  mnxtiReturnsEntryAddress : Bool
  /-- `MIE_IGNORED_IN_UMODE` (R470). -/
  mieIgnoredInUMode : Bool
  /-- `MMISC_CTL_RESET`: reset value of `mmisc_ctl[9]` (R58). -/
  mmiscCtlReset : Bool
deriving DecidableEq, Repr

/-- Do the byte ranges `[a, a+m)` and `[b, b+n)` have no byte in common? -/
def rangesDisjoint (a m b n : Nat) : Bool := decide (a + m ≤ b) || decide (b + n ≤ a)

/-- Every region lies inside the address space and shares no byte with the TIMER, the ECLIC or a later region. -/
def regionsOk (timer eclic : Nat) : List Region → Bool
  | [] => true
  | r :: rs =>
    decide (r.base.toNat + r.size ≤ 2 ^ 32)
      && rangesDisjoint r.base.toNat r.size timer 0x1000
      && rangesDisjoint r.base.toNat r.size eclic 0x5000
      && rs.all (fun q => rangesDisjoint r.base.toNat r.size q.base.toNat q.size)
      && regionsOk timer eclic rs

/-- The conditions R7 puts on the parameters (and D4, D5): alignment of the reset vector and of the two bases, the
bounds of `NUM_INTERRUPT` and `CLICINTCTLBITS`, and that no two regions overlap. -/
def Config.wf (c : Config) : Bool :=
  (c.resetVector.extractLsb' 0 2 == 0#2)
    && (c.timerBase.extractLsb' 0 2 == 0#2)
    && (c.eclicBase.extractLsb' 0 2 == 0#2)
    && decide (c.timerBase.toNat + 0x1000 ≤ 2 ^ 32)
    && decide (c.eclicBase.toNat + 0x5000 ≤ 2 ^ 32)
    && rangesDisjoint c.timerBase.toNat 0x1000 c.eclicBase.toNat 0x5000
    && decide (c.numInterrupt ≤ 4096)
    && decide (c.clicIntCtlBits ≤ 8)
    && regionsOk c.timerBase.toNat c.eclicBase.toNat c.memMap

/-- DESIGN CHOICE (log 1): the configuration of `State.reset`, the one the spec's own test vectors use
(spec/95_test_vectors.md section 0). -/
def Config.standard : Config where
  hasUMode := true
  resetVector := 0x00000000#32
  timerBase := 0xD1000000#32
  eclicBase := 0xD2000000#32
  numInterrupt := 32
  clicIntCtlBits := 4
  eclicVersion := 0#8
  mvendorid := 0#32
  marchid := 0#32
  mimpid := 0#32
  mhartid := 0#32
  misaX := false
  memMap := [⟨0x00000000#32, 0x10000, .ram⟩, ⟨0x20000000#32, 0x10000, .ram⟩]
  busErrorAsException := false
  mnxtiReturnsEntryAddress := false
  mieIgnoredInUMode := false
  mmiscCtlReset := false

/-- `any32` (R10, U40 to U42): the n-th draw of an unspecified 32-bit value. No body, so nothing can be proved about
it (log 9). -/
opaque Config.freeWord : Nat → Word

/-- The choice of `legalMPP` when 1 or 2 is written (R296, U43): the n-th draw of "M rather than U" (log 10). -/
opaque Config.freeBit : Nat → Bool

/-- The advance of `mcycle` in one step while `mcountinhibit.CY` is 0 (R49, U46): the n-th draw (log 11). -/
opaque Config.freeCycles : Nat → BitVec 64

end Sys2Proof
end

