-- ==== Sys2Proof/Machine/Memory.lean ====
section
/-! DEFINITION. Memory as plain data (spec/20_memory.md R120, R123): the 2^32 bytes of the physical address space as a
list of (address, byte) pairs in one canonical form, and the bytes stored since the last `fence.i` with their contents
before (R143). -/

namespace Sys2Proof.Machine

/-- The bytes of memory that differ from what an unlisted byte reads as. -/
abbrev Memory := List Host.Cell

/-- DESIGN CHOICE (log 7): memory contents at reset are unspecified (R83); a byte that nothing has written reads 0. -/
def unlistedByte : Byte := 0#8

/-- The byte at address `a`. -/
def Memory.read : Memory → Nat → Byte
  | [], _ => unlistedByte
  | (k, b) :: m, a => if k = a then b else Memory.read m a

/-- Store byte `b` at address `a`. Keeps the canonical form: rising addresses, no byte an unlisted address reads as. -/
def Memory.write : Memory → Nat → Byte → Memory
  | [], a, b => if b = unlistedByte then [] else [(a, b)]
  | (k, c) :: m, a, b =>
    if a < k then (if b = unlistedByte then (k, c) :: m else (a, b) :: (k, c) :: m)
    else if a = k then (if b = unlistedByte then m else (a, b) :: m)
    else (k, c) :: Memory.write m a b

/-- The addresses rise strictly from `lo`, lie below 2^32, and no listed byte is what an unlisted one reads as. -/
def Memory.wfFrom : Nat → Memory → Bool
  | _, [] => true
  | lo, (k, b) :: m => decide (lo ≤ k) && decide (k < 2 ^ 32) && (b != unlistedByte) && Memory.wfFrom (k + 1) m

/-- The canonical form of memory. -/
def Memory.wf (m : Memory) : Bool := Memory.wfFrom 0 m

/-- The contents, before the first store since the last `fence.i`, of every byte stored to since then (R143). -/
abbrev Stale := List Host.Cell

/-- The old contents of byte `a`, if it has been stored to since the last `fence.i`. -/
def Stale.read : Stale → Nat → Option Byte
  | [], _ => none
  | (k, b) :: m, a => if k = a then some b else Stale.read m a

/-- Remember that byte `a` held `b` before this store, unless it is remembered already. -/
def Stale.note : Stale → Nat → Byte → Stale
  | [], a, b => [(a, b)]
  | (k, c) :: m, a, b =>
    if a < k then (a, b) :: (k, c) :: m
    else if a = k then (k, c) :: m
    else (k, c) :: Stale.note m a b

/-- The addresses rise strictly from `lo` and lie below 2^32. -/
def Stale.wfFrom : Nat → Stale → Bool
  | _, [] => true
  | lo, (k, _) :: m => decide (lo ≤ k) && decide (k < 2 ^ 32) && Stale.wfFrom (k + 1) m

/-- The canonical form of the record of stored bytes. -/
def Stale.wf (m : Stale) : Bool := Stale.wfFrom 0 m

end Sys2Proof.Machine
end

