-- ==== Sys2Proof/Machine/State.lean ====
section
/-! DEFINITION. The state of the machine as plain data (spec/10_state.md R20 to R83), the reasons a step can stop, and
the state after reset (spec/70_reset_and_hazards.md R521). INVENTORY.md lists every field with its rule. -/

namespace Sys2Proof.Machine

/-- The privilege modes (R26): Machine, code 3, and User, code 0. -/
inductive Priv where
  | M
  | U
deriving DecidableEq, Repr

/-- The stored fields of `mstatus` (R35). `FS` is constant 0 and `SD` is computed from `XS`. -/
structure Mstatus where
  mie : Bool
  mpie : Bool
  mpp : Priv
  xs : BitVec 2
deriving DecidableEq, Repr

/-- The stored fields of `mcause` (R43). Bits 29:27 are `mstatus.MPP` and `mstatus.MPIE`. -/
structure Mcause where
  interrupt : Bool
  minhv : Bool
  mpil : Byte
  exccode : BitVec 12
deriving DecidableEq, Repr

/-- `msubm` (R57): trap types 0 none, 1 interrupt, 2 exception, 3 NMI. -/
structure Msubm where
  ptyp : BitVec 2
  typ : BitVec 2
deriving DecidableEq, Repr

/-- One level of `msavestatus` (R59). -/
structure SavedStatus where
  mpie : Bool
  mpp : Priv
  ptyp : BitVec 2
deriving DecidableEq, Repr

/-- `mcounteren` (R54). -/
structure Mcounteren where
  cy : Bool
  tm : Bool
  ir : Bool
deriving DecidableEq, Repr

/-- The CSRs that have storage (R29). -/
structure Csrs where
  mstatus : Mstatus
  mtvec : Word
  /-- R40: the low bits below the alignment are 0. -/
  mtvt : Word
  mscratch : Word
  /-- R42: bit 0 is 0. -/
  mepc : Word
  mcause : Mcause
  mtval : Word
  /-- `mintstatus.MIL` (R46). -/
  mil : Byte
  /-- `mcycleh`, `mcycle` (R49). -/
  mcycle : BitVec 64
  /-- `minstreth`, `minstret` (R50). -/
  minstret : BitVec 64
  mcounteren : Mcounteren
  /-- `mcountinhibit.CY` (R55). -/
  inhibitCy : Bool
  /-- `mcountinhibit.IR` (R55). -/
  inhibitIr : Bool
  msubm : Msubm
  /-- `mmisc_ctl.NMI_CAUSE_FFF` (R58). -/
  nmiCauseFff : Bool
  /-- First level of `msavestatus` (R59). -/
  save1 : SavedStatus
  /-- Second level of `msavestatus` (R59). -/
  save2 : SavedStatus
  /-- R60: bit 0 is 0. -/
  msaveepc1 : Word
  msaveepc2 : Word
  /-- R61: bits 26:24 and 15:12 are 0. -/
  msavecause1 : Word
  msavecause2 : Word
  /-- `mtvt2.COMMON-CODE-ENTRY`, bits 31:2 (R65). -/
  commonEntry : BitVec 30
  /-- `mtvt2.MTVT2EN` (R65). -/
  mtvt2en : Bool
  /-- `sleepvalue.SLEEPVALUE` (R67). -/
  sleepvalue : Bool
  /-- `wfe.WFE` (R69). -/
  wfe : Bool
deriving DecidableEq, Repr

/-- The TIMER unit (R70 to R74). -/
structure Timer where
  mtime : BitVec 64
  mtimecmp : BitVec 64
  /-- `mstop.TIMESTOP` (R73). -/
  timestop : Bool
  /-- `msip.MSIP` (R74). -/
  msip : Bool
deriving DecidableEq, Repr

/-- One interrupt source of the ECLIC (R79 to R82), with `irq_line_prev` (R28). -/
structure Source where
  ip : Bool
  ie : Bool
  trig : BitVec 2
  shv : Bool
  /-- The writable high bits of `clicintctl[i]`; the bits that read constant 1 are 0 here (R82). -/
  ctl : Byte
  prev : Bool
deriving DecidableEq, Repr

/-- The ECLIC (R75 to R82): source `i` is entry `i` of `sources`. -/
structure Eclic where
  /-- `cliccfg.nlbits` (R76). -/
  nlbits : BitVec 4
  mth : Byte
  sources : List Source
deriving DecidableEq, Repr

/-- `bus_error_pending` (R131) and the kind and address the last bus error recorded (R418). -/
structure BusErr where
  pending : Bool
  isStore : Bool
  addr : Word
deriving DecidableEq, Repr

/-- What the environment supplies at one hart step (R500, log 8): the model's own record of free inputs. -/
structure EnvInput where
  /-- The level of input `nmi` (R440). -/
  nmi : Bool
  /-- The level of input `rx_evt` (R509). -/
  rxEvt : Bool
  /-- Ticks of `mtime_toggle_a` since the step before (R490). -/
  ticks : Nat
  /-- The external lines that are high: ids of 19 and above (R480). -/
  extIrq : List Nat
  /-- A device answers this step's access, or a ROM this step's store, with a bus error (R121). -/
  busError : Bool
  /-- A device the hart may execute from answers the fetch of this step's first parcel with an error (R128, R130). -/
  fetchError : Bool
  /-- The same for the second parcel. -/
  fetchErrorHi : Bool
  /-- Such a device answers this step's vector read with an error (R478). -/
  vectorError : Bool
  /-- What such a device answers this step's fetch with: the first parcel in bits 15:0, the second in bits 31:16 (R121,
  log 23). -/
  fetchData : Word
  /-- What such a device answers this step's vector read with (R478, log 23). -/
  vectorData : Word
  /-- `SpuriousFailure()` of `sc.w` (R342). -/
  scFail : Bool
  /-- The first parcel's fetch sees the contents before the stores since the last `fence.i` (R143). -/
  fetchOld : Bool
  /-- The same for the second parcel. -/
  fetchOldHi : Bool
  /-- Bytes other bus masters write to RAM before this step (R141). -/
  busWrites : List (Word × Byte)
deriving DecidableEq, Repr

/-- The whole state (R20). -/
structure State where
  /-- The parameters of R7; no step writes them (log 1). -/
  cfg : Config
  /-- The general registers; entry 0 is never read or written (R21). -/
  x : Vector Word 32
  /-- R23: bit 0 is 0. -/
  pc : Word
  priv : Priv
  csr : Csrs
  timer : Timer
  eclic : Eclic
  /-- The word address of a valid LR reservation (R28, R146). -/
  reservation : Option Word
  /-- A rising edge of `nmi` has been seen and not yet taken (R440). -/
  nmiPending : Bool
  /-- The previous sample of `nmi` (R440). -/
  nmiPrev : Bool
  sleeping : Bool
  busErr : BusErr
  /-- The `tx_evt` pulse: set by the step that wrote 1 to `txevt` (R68, log 27). -/
  txEvt : Bool
  mem : Memory
  /-- Bytes stored since the last `fence.i` (R143). -/
  stale : Stale
  /-- The model's own: the inputs of the current step. -/
  now : EnvInput
  /-- The model's own: the inputs of the coming steps; after the last, the inputs are quiet (log 8). -/
  future : List EnvInput
  /-- The model's own: how many free values have been drawn (log 9). -/
  draws : Nat
deriving DecidableEq, Repr

/-- Where the machine stops with a named fault. -/
inductive Fault where
  /-- Raised by the step when an interrupt becomes takeable while `mtvec[5:0]` is not 000011 (R471, U60). The default
  interrupt mode has no description. Safe: the model stops where the hardware does something unspecified. -/
  | defaultInterruptMode
deriving DecidableEq, Repr

/-- Where the machine refuses, by name. -/
inductive Refusal where
  /-- Raised by an arm of `exec` whose instruction has no meaning yet. Safe. -/
  | notModelled (mnemonic : String)
  /-- Raised by a CSR instruction that names an operation CSR in a form the spec does not describe (R303 to R308,
  U61). Safe. -/
  | csrAccessForm
  /-- Raised by a byte or halfword access to the TIMER (R135, U62). Safe. -/
  | timerAccessSize
  /-- Raised by LR, SC or AMO on the TIMER, the ECLIC or another device (R145, R340, U63). Safe. -/
  | atomicOnDevice
deriving DecidableEq, Repr

/-- No event at all: no NMI, no event, no tick, no line high, no error, no spurious failure, new contents fetched. -/
def EnvInput.quiet : EnvInput where
  nmi := false
  rxEvt := false
  ticks := 0
  extIrq := []
  busError := false
  fetchError := false
  fetchErrorHi := false
  vectorError := false
  fetchData := 0#32
  vectorData := 0#32
  scFail := false
  fetchOld := false
  fetchOldHi := false
  busWrites := []

/-- The reset value of `MPP`, 0 with User Mode and 3 without (R35). -/
def mppReset (c : Config) : Priv := if c.hasUMode then .U else .M

/-- A source at reset (R79 to R82): `clicintctl` writable bits DESIGN CHOICE 0 (log 6). -/
def Source.reset : Source where
  ip := false
  ie := false
  trig := 0#2
  shv := false
  ctl := 0#8
  prev := false

/-- The CSRs at reset (R83). Where R83 says "unspecified" the value is DESIGN CHOICE 0 (log 3, 4, 5). -/
def Csrs.resetOf (c : Config) : Csrs where
  mstatus := { mie := false, mpie := false, mpp := mppReset c, xs := 0#2 }
  mtvec := 0#32
  mtvt := 0#32
  mscratch := 0#32
  mepc := 0#32
  mcause := { interrupt := false, minhv := false, mpil := 0#8, exccode := 0#12 }
  mtval := 0#32
  mil := 0#8
  mcycle := 0#64
  minstret := 0#64
  mcounteren := { cy := false, tm := false, ir := false }
  inhibitCy := false
  inhibitIr := false
  msubm := { ptyp := 0#2, typ := 0#2 }
  nmiCauseFff := c.mmiscCtlReset
  save1 := { mpie := false, mpp := mppReset c, ptyp := 0#2 }
  save2 := { mpie := false, mpp := mppReset c, ptyp := 0#2 }
  msaveepc1 := 0#32
  msaveepc2 := 0#32
  msavecause1 := 0#32
  msavecause2 := 0#32
  commonEntry := 0#30
  mtvt2en := false
  sleepvalue := false
  wfe := false

/-- The state after `Reset()` under configuration `c` (R83, R521). General registers DESIGN CHOICE 0 (log 2). -/
def State.resetOf (c : Config) : State where
  cfg := c
  x := Vector.replicate 32 0#32
  pc := c.resetVector
  priv := .M
  csr := Csrs.resetOf c
  timer := { mtime := 0#64, mtimecmp := 0xFFFFFFFFFFFFFFFF#64, timestop := false, msip := false }
  eclic := { nlbits := 0#4, mth := 0#8, sources := List.replicate c.numInterrupt Source.reset }
  reservation := none
  nmiPending := false
  nmiPrev := false
  sleeping := false
  busErr := { pending := false, isStore := false, addr := 0#32 }
  txEvt := false
  mem := []
  stale := []
  now := EnvInput.quiet
  future := []
  draws := 0

/-- The machine right after reset, under the configuration of log 1. -/
def State.reset : State := State.resetOf Config.standard

end Sys2Proof.Machine
end

