-- ==== Sys2Proof/Machine/Operands.lean ====
section
/-! DEFINITION. Operand forms: register access, the immediates of every format and the bit-field helpers
(spec/10_state.md R21, spec/30_encoding.md R164, R170, spec/46_c_compressed.md R361). -/

namespace Sys2Proof.Machine

/-- `x[r]`; `x[0]` is always 0 (R10, R21). -/
def readReg (s : State) (r : Reg) : Word := if r = 0#5 then 0#32 else s.x[r.toNat]

/-- `x[r] <- v`; a write to `x[0]` is discarded (R10, R21). -/
def setReg (r : Reg) (v : Word) (s : State) : State :=
  if r = 0#5 then s else { s with x := s.x.set r.toNat v }

/-- The register a 3-bit field names: `x[8 + f]` (R361). -/
def cReg (f : CReg) : Reg := 0b01#2 ++ f

/-- I and S immediates: `sext_12` (R164). -/
def immI (imm : BitVec 12) : Word := imm.signExtend 32

/-- B offset from offset[12:1]: `sext_13` (R164). -/
def offB (off : BitVec 12) : Word := (off ++ 0#1).signExtend 32

/-- U immediate: the 20 bits in 31:12 (R164). -/
def immU (imm20 : BitVec 20) : Word := imm20 ++ 0#12

/-- J offset from offset[20:1]: `sext_21` (R164). -/
def offJ (off : BitVec 20) : Word := (off ++ 0#1).signExtend 32

/-- `zext_5` of a CSR immediate (R164). -/
def immCsr (uimm : BitVec 5) : Word := uimm.zeroExtend 32

/-- `sext_6` of `c.addi`, `c.li`, `c.andi` (R170). -/
def imm6 (imm : BitVec 6) : Word := imm.signExtend 32

/-- `c.addi4spn` from nzuimm[9:2] (R170). -/
def imm4spn (nz : BitVec 8) : Word := (nz ++ 0#2).zeroExtend 32

/-- `c.lw`, `c.sw` from uimm[6:2] (R170). -/
def immLw (u : BitVec 5) : Word := (u ++ 0#2).zeroExtend 32

/-- `c.lwsp`, `c.swsp` from uimm[7:2] (R170). -/
def immSp (u : BitVec 6) : Word := (u ++ 0#2).zeroExtend 32

/-- `c.addi16sp` from nzimm[9:4]: `sext_10` (R170). -/
def imm16sp (nz : BitVec 6) : Word := (nz ++ 0#4).signExtend 32

/-- `c.lui` from nzimm[17:12]: `sext_18` (R170). -/
def immCLui (nz : BitVec 6) : Word := (nz ++ 0#12).signExtend 32

/-- `c.j`, `c.jal` from offset[11:1]: `sext_12` (R170). -/
def offCJ (off : BitVec 11) : Word := (off ++ 0#1).signExtend 32

/-- `c.beqz`, `c.bnez` from offset[8:1]: `sext_9` (R170). -/
def offCB (off : BitVec 8) : Word := (off ++ 0#1).signExtend 32

/-- The shift amount of a register shift: `v[4:0]` (R214). -/
def shiftAmount (v : Word) : Nat := (v.extractLsb' 0 5).toNat

/-- `t & 0xFFFFFFFE`: an address with bit 0 cleared. -/
def clearBit0 (t : Word) : Word := t &&& 0xFFFFFFFE#32

/-- A Boolean as a word: 1 or 0 (R204). -/
def boolWord (b : Bool) : Word := if b then 1#32 else 0#32

/-- Byte `k` of a word, byte 0 the least significant (R123). -/
def byteOf (v : Word) (k : Nat) : Byte := v.extractLsb' (8 * k) 8

/-- Bit `k` of a word as a Boolean. -/
def bitOf (v : Word) (k : Nat) : Bool := v.getLsbD k

/-- A Boolean as one bit. -/
def bit (b : Bool) : BitVec 1 := BitVec.ofBool b

/-- Low `8 n` bits of a word, the rest 0: a value of an `n`-byte access. -/
def truncateTo (n : Nat) (v : Word) : Word :=
  if n = 1 then (v.extractLsb' 0 8).zeroExtend 32
  else if n = 2 then (v.extractLsb' 0 16).zeroExtend 32
  else v

/-- `sext_8` of a loaded byte (R261). -/
def signExtend8 (v : Word) : Word := (v.extractLsb' 0 8).signExtend 32

/-- `sext_16` of a loaded halfword (R262). -/
def signExtend16 (v : Word) : Word := (v.extractLsb' 0 16).signExtend 32

end Sys2Proof.Machine
end

