-- ==== Sys2Proof/Machine/Flags.lean ====
section
/-! DEFINITION. The core has no flags (spec/10_state.md R25): conditions exist only as the comparisons that branches,
set-less-than and the atomic minimum and maximum make on register values (spec/00_scope.md R9). -/

namespace Sys2Proof.Machine

/-- `signed(a) < signed(b)`. -/
def ltSigned (a b : Word) : Bool := a.slt b

/-- `unsigned(a) < unsigned(b)`. -/
def ltUnsigned (a b : Word) : Bool := a.ult b

/-- `signed(a) >= signed(b)`. -/
def geSigned (a b : Word) : Bool := !a.slt b

/-- `unsigned(a) >= unsigned(b)`. -/
def geUnsigned (a b : Word) : Bool := !a.ult b

end Sys2Proof.Machine
end

