-- ==== Sys2Proof/Machine/Devices.lean ====
section
/-! DEFINITION. The two memory-mapped units of the core, as functions of their registers: TIMER (spec/10_state.md R70
to R74, spec/20_memory.md R135, spec/60_exceptions.md R490 to R492) and ECLIC (R75 to R82, R136, R480 to R486). -/

namespace Sys2Proof.Machine

/-! ## TIMER -/

/-- `TimerRead(off, 4)` (R135). -/
def timerRead (t : Timer) (off : Nat) : Word :=
  if off = 0x000 then t.mtime.extractLsb' 0 32
  else if off = 0x004 then t.mtime.extractLsb' 32 32
  else if off = 0x008 then t.mtimecmp.extractLsb' 0 32
  else if off = 0x00C then t.mtimecmp.extractLsb' 32 32
  else if off = 0xFF8 then boolWord t.timestop
  else if off = 0xFFC then boolWord t.msip
  else 0#32

/-- `TimerWrite(off, 4, v)` (R135). -/
def timerWrite (off : Nat) (v : Word) (t : Timer) : Timer :=
  if off = 0x000 then { t with mtime := t.mtime.extractLsb' 32 32 ++ v }
  else if off = 0x004 then { t with mtime := v ++ t.mtime.extractLsb' 0 32 }
  else if off = 0x008 then { t with mtimecmp := t.mtimecmp.extractLsb' 32 32 ++ v }
  else if off = 0x00C then { t with mtimecmp := v ++ t.mtimecmp.extractLsb' 0 32 }
  else if off = 0xFF8 then { t with timestop := bitOf v 0 }
  else if off = 0xFFC then { t with msip := bitOf v 0 }
  else t

/-- `TimerTick(k)` (R490). -/
def timerTick (k : Nat) (t : Timer) : Timer :=
  if t.timestop then t else { t with mtime := t.mtime + BitVec.ofNat 64 k }

/-- The timer interrupt line: `unsigned(mtime) >= unsigned(mtimecmp)` (R491). -/
def timerLine (t : Timer) : Bool := !t.mtime.ult t.mtimecmp

/-! ## ECLIC registers -/

/-- `ones(k)` as a byte, k at most 8 (R484). -/
def onesLow (k : Nat) : Byte := BitVec.allOnes 8 >>> (8 - k)

/-- Source `i` exists: it is below `NUM_INTERRUPT` and 3, 7, 17 or at least 19 (R480). -/
def sourceExists (c : Config) (i : Nat) : Bool :=
  decide (i < c.numInterrupt) && (decide (i = 3) || decide (i = 7) || decide (i = 17) || decide (19 ≤ i))

/-- The registers of source `i`. -/
def sourceAt (e : Eclic) (i : Nat) : Source := e.sources.getD i Source.reset

/-- Replace the registers of source `i`. -/
def setSource (i : Nat) (q : Source) (e : Eclic) : Eclic := { e with sources := e.sources.set i q }

/-- `clicintctl[i]` as read: the bits not implemented read 1 (R82). -/
def ctlRead (c : Config) (q : Source) : Byte := q.ctl ||| onesLow (8 - c.clicIntCtlBits)

/-- `clicintattr[i]` as read (R81). -/
def attrRead (q : Source) : Byte := 0b11000#5 ++ q.trig ++ bit q.shv

/-- `clicinfo` (R77). -/
def clicinfo (c : Config) : Word :=
  0#7 ++ BitVec.ofNat 4 c.clicIntCtlBits ++ c.eclicVersion ++ BitVec.ofNat 13 c.numInterrupt

/-- Byte `k` of the four registers of an existing source: 0 ip, 1 ie, 2 attr, 3 ctl (R75). -/
def sourceReadByte (c : Config) (q : Source) (k : Nat) : Byte :=
  if k = 0 then (bit q.ip).zeroExtend 8
  else if k = 1 then (bit q.ie).zeroExtend 8
  else if k = 2 then attrRead q
  else ctlRead c q

/-- `EclicReadByte(off)` (R136). -/
def eclicReadByte (c : Config) (e : Eclic) (off : Nat) : Byte :=
  if off = 0x0000 then 0b000#3 ++ e.nlbits ++ 0b1#1
  else if 0x0004 ≤ off ∧ off ≤ 0x0007 then byteOf (clicinfo c) (off - 4)
  else if off = 0x000b then e.mth
  else if 0x1000 ≤ off then
    if sourceExists c ((off - 0x1000) / 4) then
      sourceReadByte c (sourceAt e ((off - 0x1000) / 4)) ((off - 0x1000) % 4)
    else 0#8
  else 0#8

/-- Write byte `k` of an existing source (R136). IP of a level-triggered source ignores writes (R481). -/
def sourceWriteByte (c : Config) (k : Nat) (b : Byte) (q : Source) : Source :=
  if k = 0 then (if q.trig.getLsbD 0 then { q with ip := b.getLsbD 0 } else q)
  else if k = 1 then { q with ie := b.getLsbD 0 }
  else if k = 2 then { q with trig := b.extractLsb' 1 2, shv := b.getLsbD 0 }
  else { q with ctl := b &&& ~~~ onesLow (8 - c.clicIntCtlBits) }

/-- `EclicWriteByte(off, b)` (R136). Everything that is not a writable register ignores the write. -/
def eclicWriteByte (c : Config) (off : Nat) (b : Byte) (e : Eclic) : Eclic :=
  if off = 0x0000 then { e with nlbits := b.extractLsb' 1 4 }
  else if off = 0x000b then { e with mth := b }
  else if 0x1000 ≤ off then
    if sourceExists c ((off - 0x1000) / 4) then
      setSource ((off - 0x1000) / 4)
        (sourceWriteByte c ((off - 0x1000) % 4) b (sourceAt e ((off - 0x1000) / 4))) e
    else e
  else e

/-- `EclicRead(off, n)`: the bytes at `off .. off+n-1`, little-endian (R136). -/
def eclicRead (c : Config) (e : Eclic) (off n : Nat) : Word :=
  if n = 1 then (eclicReadByte c e off).zeroExtend 32
  else if n = 2 then (eclicReadByte c e (off + 1) ++ eclicReadByte c e off).zeroExtend 32
  else eclicReadByte c e (off + 3) ++ eclicReadByte c e (off + 2) ++ eclicReadByte c e (off + 1)
    ++ eclicReadByte c e off

/-- Is the byte at this offset a `clicintattr` byte (R136)? -/
def isAttrByte (off : Nat) : Bool := decide (0x1000 ≤ off) && decide (off % 4 = 2)

/-- Write byte `k` of `v` at `off + k`, if `sel` says so of that offset. -/
def eclicWriteIf (sel : Nat → Bool) (c : Config) (off : Nat) (v : Word) (e : Eclic) (k : Nat) : Eclic :=
  if sel (off + k) then eclicWriteByte c (off + k) (byteOf v k) e else e

/-- `EclicWrite(off, n, v)`: the `clicintattr` byte first, then the others in rising order (R136). -/
def eclicWrite (c : Config) (off n : Nat) (v : Word) (e : Eclic) : Eclic :=
  (List.range n).foldl (eclicWriteIf (fun o => !isAttrByte o) c off v)
    ((List.range n).foldl (eclicWriteIf isAttrByte c off v) e)

/-! ## ECLIC arbitration -/

/-- The effective `nlbits`: 9 to 15 act as 8 (R76, R484). -/
def nlbitsEff (e : Eclic) : Nat := min e.nlbits.toNat 8

/-- `Level(i)` (R484). -/
def sourceLevel (c : Config) (e : Eclic) (q : Source) : Byte :=
  (ctlRead c q &&& ~~~ onesLow (8 - nlbitsEff e)) ||| onesLow (8 - nlbitsEff e)

/-- `Priority(i)` (R485). -/
def sourcePriority (c : Config) (e : Eclic) (q : Source) : Byte :=
  (ctlRead c q <<< nlbitsEff e) ||| onesLow (nlbitsEff e)

/-- A source that takes part in arbitration. -/
structure Candidate where
  id : Nat
  level : Byte
  priority : Byte
  shv : Bool
deriving DecidableEq, Repr

/-- The arbitration order of R486: level, then priority, then id, each unsigned, the larger first. -/
def Candidate.beats (a b : Candidate) : Bool :=
  b.level.ult a.level
    || (a.level == b.level && (b.priority.ult a.priority || (a.priority == b.priority && decide (b.id < a.id))))

/-- Source `q` as candidate number `i`, if it exists and is enabled and pending (R486). -/
def candidate (c : Config) (e : Eclic) (i : Nat) (q : Source) : Option Candidate :=
  if sourceExists c i && q.ie && q.ip then
    some { id := i, level := sourceLevel c e q, priority := sourcePriority c e q, shv := q.shv }
  else none

/-- The better of two candidates, if any. -/
def betterOf : Option Candidate → Option Candidate → Option Candidate
  | none, b => b
  | a, none => a
  | some a, some b => if a.beats b then some a else some b

/-- The greatest candidate among the sources from number `i` on. -/
def winnerFrom (c : Config) (e : Eclic) : Nat → List Source → Option Candidate
  | _, [] => none
  | i, q :: qs => betterOf (candidate c e i q) (winnerFrom c e (i + 1) qs)

/-- `EclicRequest()`: the winner, if its level is above `mth` (R486). -/
def eclicRequest (c : Config) (e : Eclic) : Option Candidate :=
  match winnerFrom c e 0 e.sources with
  | some w => if e.mth.ult w.level then some w else none
  | none => none

/-- `SampleSource(i)` with line level `l` (R482). -/
def sampleSource (l : Bool) (q : Source) : Source :=
  if !q.trig.getLsbD 0 then { q with ip := l, prev := l }
  else if !q.trig.getLsbD 1 then { q with ip := q.ip || (!q.prev && l), prev := l }
  else { q with ip := q.ip || (q.prev && !l), prev := l }

/-- `SampleSource(i)` for every existing source from number `i` on, under the lines `line`. -/
def sampleFrom (c : Config) (line : Nat → Bool) : Nat → List Source → List Source
  | _, [] => []
  | i, q :: qs => (if sourceExists c i then sampleSource (line i) q else q) :: sampleFrom c line (i + 1) qs

end Sys2Proof.Machine
end

