-- ==== Sys2Proof/Machine/Ops.lean ====
section
/-! DEFINITION. The named operations the meanings share: free values, completion of an instruction, the address map and
memory access (spec/20_memory.md R121 to R131, R146), taking an exception, an NMI and an interrupt, and the return from
them (spec/60_exceptions.md R405 to R418, R442, R472 to R479, spec/43_system_csr.md R300 to R302). -/

namespace Sys2Proof.Machine

/-- How a step or an instruction ends. -/
abbrev Result := Host.Outcome State Fault Refusal

/-! ## Free values (R10, log 9) -/

/-- The free word the next draw gives: `any32`. -/
def freeWord (s : State) : Word := Config.freeWord s.draws

/-- One free value has been drawn. -/
def drawn (s : State) : State := { s with draws := s.draws + 1 }

/-! ## Completion (R24, R50) -/

/-- `minstret` counts the instruction, unless `mcountinhibit.IR` is 1 (R50). -/
def countRetired (s : State) : State :=
  if s.csr.inhibitIr then s else { s with csr := { s.csr with minstret := s.csr.minstret + 1#64 } }

/-- The instruction completes and the next one is at `next`. -/
def retireTo (next : Word) (s : State) : Result := .next { countRetired s with pc := next }

/-- The instruction of `len` bytes completes and assigns no pc (R24). -/
def retire (len : Word) (s : State) : Result := retireTo (s.pc + len) s

/-- `x[rd] <- v` and completion of an instruction of `len` bytes. -/
def retireWrite (rd : Reg) (v len : Word) (s : State) : Result := retire len (setReg rd v s)

/-! ## The address map (R121) -/

/-- What answers at an address. -/
inductive Place where
  | timer
  | eclic
  | ram
  | rom
  | device (fetchable : Bool)
  | nothing
deriving DecidableEq, Repr

/-- The place a region kind stands for. -/
def placeOfKind : RegionKind → Place
  | .ram => .ram
  | .rom => .rom
  | .device f => .device f

/-- `MemMap(addr)`: TIMER, ECLIC, else the first region that holds the address, else nothing (R121, log 19, 24). -/
def placeOf (c : Config) (a : Word) : Place :=
  if (a - c.timerBase).toNat < 0x1000 then .timer
  else if (a - c.eclicBase).toNat < 0x5000 then .eclic
  else
    match c.memMap.find? (fun r => r.contains a) with
    | some r => placeOfKind r.kind
    | none => .nothing

/-- TIMER, ECLIC or another device: where atomics are refused (R145). -/
def Place.isDevice : Place → Bool
  | .timer => true
  | .eclic => true
  | .device _ => true
  | .ram => false
  | .rom => false
  | .nothing => false

/-! ## Memory access -/

/-- The byte of memory at an address. -/
def byteAt (s : State) (a : Word) : Byte := s.mem.read a.toNat

/-- The little-endian value of `n` bytes of memory at `a` (R123). -/
def memValue (s : State) (a : Word) (n : Nat) : Word :=
  if n = 1 then (byteAt s a).zeroExtend 32
  else if n = 2 then (byteAt s (a + 1#32) ++ byteAt s a).zeroExtend 32
  else byteAt s (a + 3#32) ++ byteAt s (a + 2#32) ++ byteAt s (a + 1#32) ++ byteAt s a

/-- Store one byte, remembering the old one until the next `fence.i` (R143). -/
def storeByte (a : Word) (b : Byte) (s : State) : State :=
  { s with mem := s.mem.write a.toNat b, stale := s.stale.note a.toNat (byteAt s a) }

/-- Store the low `n` bytes of `v` at `a`, little-endian (R123). -/
def storeBytes (a : Word) (n : Nat) (v : Word) (s : State) : State :=
  if n = 1 then storeByte a (byteOf v 0) s
  else if n = 2 then storeByte (a + 1#32) (byteOf v 1) (storeByte a (byteOf v 0) s)
  else storeByte (a + 3#32) (byteOf v 3) (storeByte (a + 2#32) (byteOf v 2)
    (storeByte (a + 1#32) (byteOf v 1) (storeByte a (byteOf v 0) s)))

/-- The access address is not a multiple of the size `n` (R125). -/
def misaligned (a : Word) (n : Nat) : Bool := decide (a.toNat % n ≠ 0)

/-- `bus_error_pending <- 1`, with the kind and address of R418. -/
def raiseBusError (isStore : Bool) (a : Word) (s : State) : State :=
  { s with busErr := { pending := true, isStore := isStore, addr := a } }

/-- The `n` bytes at `a` overlap the reserved word (R127, R146). -/
def overlapsReservation (s : State) (a : Word) (n : Nat) : Bool :=
  match s.reservation with
  | some r => decide (a.toNat < r.toNat + 4) && decide (r.toNat < a.toNat + n)
  | none => false

/-- A store to `n` bytes at `a` clears an overlapping reservation (R127). -/
def breakReservation (a : Word) (n : Nat) (s : State) : State :=
  if overlapsReservation s a n then { s with reservation := none } else s

/-- `MemRead(a, n)` after the alignment check (R126): the value as an `8n`-bit number and the state after. -/
def memRead (a : Word) (n : Nat) (s : State) : Except Refusal (Word × State) :=
  match placeOf s.cfg a with
  | .timer =>
    if n = 4 then .ok (timerRead s.timer (a - s.cfg.timerBase).toNat, s) else .error .timerAccessSize
  | .eclic => .ok (eclicRead s.cfg s.eclic (a - s.cfg.eclicBase).toNat n, s)
  | .ram => .ok (memValue s a n, s)
  | .rom => .ok (memValue s a n, s)
  | .device _ =>
    .ok (truncateTo n (freeWord s), if s.now.busError then raiseBusError false a (drawn s) else drawn s)
  | .nothing => .ok (truncateTo n (freeWord s), raiseBusError false a (drawn s))

/-- What `MemWrite(a, n, v)` does to the place it addresses (R127). -/
def writePlace (a : Word) (n : Nat) (v : Word) (s : State) : Except Refusal State :=
  match placeOf s.cfg a with
  | .timer =>
    if n = 4 then .ok { s with timer := timerWrite (a - s.cfg.timerBase).toNat v s.timer }
    else .error .timerAccessSize
  | .eclic => .ok { s with eclic := eclicWrite s.cfg (a - s.cfg.eclicBase).toNat n v s.eclic }
  | .ram => .ok (storeBytes a n v s)
  | .rom => .ok (if s.now.busError then raiseBusError true a s else s)
  | .device _ => .ok (if s.now.busError then raiseBusError true a s else s)
  | .nothing => .ok (raiseBusError true a s)

/-- `MemWrite(a, n, v)` after the alignment check (R127). -/
def memWrite (a : Word) (n : Nat) (v : Word) (s : State) : Except Refusal State :=
  match writePlace a n v s with
  | .ok s' => .ok (breakReservation a n s')
  | .error r => .error r

/-! ## Taking an exception (R405 to R414) -/

/-- The code of a privilege mode: 3 or 0 (R26). -/
def Priv.code : Priv → BitVec 2
  | .M => 3#2
  | .U => 0#2

/-- The full read value of `mcause` (R296): bits 29:27 are `mstatus.MPP` and `mstatus.MPIE`. -/
def mcauseValue (c : Csrs) : Word :=
  bit c.mcause.interrupt ++ bit c.mcause.minhv ++ c.mstatus.mpp.code ++ bit c.mstatus.mpie ++ 0#3 ++ c.mcause.mpil
    ++ 0#4 ++ c.mcause.exccode

/-- The first level of the state stack as a push fills it (R412). -/
def statusToSave (c : Csrs) : SavedStatus :=
  { mpie := c.mstatus.mpie, mpp := c.mstatus.mpp, ptyp := c.msubm.ptyp }

/-- `StackPush()` (R412). -/
def stackPush (s : State) : State :=
  { s with csr := { s.csr with
      msaveepc2 := s.csr.msaveepc1, msaveepc1 := s.csr.mepc,
      msavecause2 := s.csr.msavecause1, msavecause1 := mcauseValue s.csr,
      save2 := s.csr.save1, save1 := statusToSave s.csr } }

/-- What every trap entry does (R405, R442, R472): saved pc and status, the new sub-mode `typ`, Machine Mode, and no
reservation. -/
def enterTrap (typ : BitVec 2) (epc : Word) (s : State) : State :=
  { s with
    csr := { s.csr with
      mepc := clearBit0 epc,
      mstatus := { s.csr.mstatus with mpie := s.csr.mstatus.mie, mpp := s.priv, mie := false },
      msubm := { ptyp := s.csr.msubm.typ, typ := typ } },
    priv := .M,
    reservation := none }

/-- An entry address formed from a CSR: its low two bits replaced by 0 (R413). -/
def entryAddress (t : Word) : Word := t &&& 0xFFFFFFFC#32

/-- Set the fields of `mcause` that an exception or NMI entry names (R406, R442). -/
def setTrapCause (code : BitVec 12) (s : State) : State :=
  { s with csr := { s.csr with mcause := { s.csr.mcause with interrupt := false, exccode := code } } }

/-- `ExceptionEntry(code, tval, epc)` (R405). -/
def exceptionEntry (code : BitVec 12) (tval epc : Word) (s : State) : State :=
  let t := setTrapCause code (enterTrap 2#2 epc (stackPush s))
  { t with csr := { t.csr with mtval := tval }, pc := entryAddress s.csr.mtvec }

/-- Illegal Instruction (code 2) with `mtval` the instruction's encoding (R408). -/
def illegalInstruction (encoding : Word) (s : State) : State := exceptionEntry 2#12 encoding s.pc s

/-- Breakpoint (code 3); `mtval` is a free value (R282, R408). -/
def breakpoint (s : State) : State := exceptionEntry 3#12 (freeWord s) s.pc (drawn s)

/-- Environment call, code 8 from User Mode and 11 from Machine Mode; `mtval` is a free value (R281, R408). -/
def environmentCall (s : State) : State :=
  exceptionEntry (match s.priv with | .U => 8#12 | .M => 11#12) (freeWord s) s.pc (drawn s)

/-- Load address misaligned (code 4), `mtval` the address (R125). -/
def loadMisaligned (a : Word) (s : State) : State := exceptionEntry 4#12 a s.pc s

/-- Store/AMO address misaligned (code 6), `mtval` the address (R125). -/
def storeMisaligned (a : Word) (s : State) : State := exceptionEntry 6#12 a s.pc s

/-- Instruction access fault (code 1), `mtval` the address that failed (R130). -/
def accessFault (a : Word) (s : State) : State := exceptionEntry 1#12 a s.pc s

/-- `BusErrorException()` (R418), only with `BUS_ERROR_AS_EXCEPTION`. -/
def busErrorException (s : State) : State :=
  let t := exceptionEntry (if s.busErr.isStore then 7#12 else 5#12) s.busErr.addr s.pc s
  { t with busErr := { t.busErr with pending := false } }

/-- The value of `mnvec` (R56). -/
def mnvecValue (s : State) : Word := if s.csr.nmiCauseFff then s.csr.mtvec else s.cfg.resetVector

/-- `NMIEntry()` (R442). -/
def nmiEntry (s : State) : State :=
  let t := setTrapCause (if s.csr.nmiCauseFff then 0xFFF#12 else 0x001#12) (enterTrap 3#2 s.pc (stackPush s))
  { t with
    nmiPending := false,
    pc := if s.csr.nmiCauseFff then entryAddress s.csr.mtvec else s.cfg.resetVector }

/-! ## Interrupts (R472 to R483) -/

/-- The address of entry `i` of the vector table (R478). -/
def vectorAddress (s : State) (i : Nat) : Word := s.csr.mtvt + 4#32 * BitVec.ofNat 32 i

/-- `VectorRead(i)`: the word, or `none` where the read fails (R478, log 23). -/
def vectorRead (s : State) (i : Nat) : Option Word :=
  match placeOf s.cfg (vectorAddress s i) with
  | .ram => some (memValue s (vectorAddress s i) 4)
  | .rom => some (memValue s (vectorAddress s i) 4)
  | .device f => if f && !s.now.vectorError then some s.now.vectorData else none
  | .timer => none
  | .eclic => none
  | .nothing => none

/-- The jump into the handler of source `i`: an edge-triggered IP is cleared (R483), and a delivered bus error is no
longer pending (R418). -/
def claimSource (i : Nat) (s : State) : State :=
  { s with
    eclic :=
      if (sourceAt s.eclic i).trig.getLsbD 0 then setSource i { sourceAt s.eclic i with ip := false } s.eclic
      else s.eclic,
    busErr := if i = 17 then { s.busErr with pending := false } else s.busErr }

/-- The common entry of non-vectored interrupts (R477). -/
def commonEntryAddress (c : Csrs) : Word :=
  if c.mtvt2en then c.commonEntry ++ 0#2 else entryAddress c.mtvec

/-- The assignments of R472 before the choice of the entry address. -/
def interruptUpdates (r : Candidate) (s : State) : State :=
  let t := enterTrap 1#2 s.pc s
  { t with csr := { t.csr with
      mcause := { t.csr.mcause with
        interrupt := true, exccode := BitVec.ofNat 12 r.id, mpil := s.csr.mil },
      mil := r.level } }

/-- `mcause.MINHV <- b`. -/
def setMinhv (b : Bool) (s : State) : State :=
  { s with csr := { s.csr with mcause := { s.csr.mcause with minhv := b } } }

/-- `InterruptEntry(r)` (R472), with the failed vector read of R479. -/
def interruptEntry (r : Candidate) (s : State) : State :=
  let t := interruptUpdates r s
  if r.shv then
    match vectorRead s r.id with
    | some v => claimSource r.id { setMinhv false t with pc := clearBit0 v }
    | none => exceptionEntry 1#12 (vectorAddress s r.id) t.csr.mepc (setMinhv true t)
  else { t with pc := commonEntryAddress s.csr }

/-! ## Return from a trap (R300 to R302) -/

/-- The stored fields of `mcause` in a saved cause; bits 29:27 are not among them (R301). -/
def causeFields (v : Word) : Mcause where
  interrupt := bitOf v 31
  minhv := bitOf v 30
  mpil := v.extractLsb' 16 8
  exccode := v.extractLsb' 0 12

/-- `MretPop()` (R301). -/
def mretPop (s : State) : State :=
  { s with csr := { s.csr with
      mepc := s.csr.msaveepc1, msaveepc1 := s.csr.msaveepc2,
      mstatus := { s.csr.mstatus with mpie := s.csr.save1.mpie, mpp := s.csr.save1.mpp },
      msubm := { s.csr.msubm with ptyp := s.csr.save1.ptyp },
      save1 := s.csr.save2,
      mcause := causeFields s.csr.msavecause1, msavecause1 := s.csr.msavecause2 } }

/-- `MretInterrupt()` (R302). -/
def mretInterrupt (s : State) : State :=
  { s with csr := { s.csr with
      mil := s.csr.mcause.mpil,
      mstatus := { s.csr.mstatus with mpie := true, mpp := if s.cfg.hasUMode then .U else .M } } }

/-- The body of `mret` in Machine Mode (R300), but for the count of the instruction. Every right-hand side is a value
from before. -/
def returnFromTrap (s : State) : State :=
  let t := if s.csr.mcause.interrupt then mretInterrupt s else mretPop s
  { t with
    pc := clearBit0 s.csr.mepc,
    priv := if s.cfg.hasUMode then s.csr.mstatus.mpp else .M,
    reservation := none,
    csr := { t.csr with
      mstatus := { t.csr.mstatus with mie := s.csr.mstatus.mpie },
      msubm := { t.csr.msubm with typ := s.csr.msubm.ptyp } } }

/-! ## Loads and stores (R260) -/

/-- A load of `n` bytes at `a` into `rd`, extended by `ext`, by an instruction of `len` bytes. -/
def loadOp (rd : Reg) (a : Word) (n : Nat) (ext : Word → Word) (len : Word) (s : State) : Result :=
  if misaligned a n then .next (loadMisaligned a s)
  else
    match memRead a n s with
    | .ok (v, s') => retireWrite rd (ext v) len s'
    | .error r => .refused r

/-- A store of the low `n` bytes of `v` at `a` by an instruction of `len` bytes. -/
def storeOp (a : Word) (n : Nat) (v len : Word) (s : State) : Result :=
  if misaligned a n then .next (storeMisaligned a s)
  else
    match memWrite a n v s with
    | .ok s' => retire len s'
    | .error r => .refused r

/-! ## Sleep (R505 to R510) -/

/-- `WakeCondition()` (R508). -/
def wakeCondition (s : State) : Bool :=
  s.nmiPending
    || ((s.csr.mstatus.mie || !s.csr.wfe) && (eclicRequest s.cfg s.eclic).isSome)
    || (!s.csr.mstatus.mie && s.csr.wfe && s.now.rxEvt)

end Sys2Proof.Machine
end

