-- ==== Sys2Proof/Machine/Atomic.lean ====
section
/-! DEFINITION. Atomic memory instructions (spec/45_a_atomic.md R340 to R352). `aq` and `rl` are decoded and ignored (R145). The
alignment check comes first; a device address is refused (R145, R340, U63). -/

namespace Sys2Proof.Machine

/-- The common shape of every AMO (R343 to R351): read, store `f` of the old value and `x[rs2]`, old value in `rd`. -/
def amoOp (f : Word → Word → Word) (rd rs2 rs1 : Reg) (s : State) : Result :=
  if misaligned (readReg s rs1) 4 then .next (storeMisaligned (readReg s rs1) s)
  else if (placeOf s.cfg (readReg s rs1)).isDevice then .refused .atomicOnDevice
  else
    match memRead (readReg s rs1) 4 s with
    | .error r => .refused r
    | .ok (t, s1) =>
      match memWrite (readReg s rs1) 4 (f t (readReg s rs2)) s1 with
      | .error r => .refused r
      | .ok s2 => retireWrite rd t 4#32 s2

/-- R341: load the word and reserve it. -/
def execLrW (rd rs1 : Reg) (_aq _rl : BitVec 1) (s : State) : Result :=
  if misaligned (readReg s rs1) 4 then .next (loadMisaligned (readReg s rs1) s)
  else if (placeOf s.cfg (readReg s rs1)).isDevice then .refused .atomicOnDevice
  else
    match memRead (readReg s rs1) 4 s with
    | .error r => .refused r
    | .ok (v, s1) => retireWrite rd v 4#32 { s1 with reservation := some (readReg s rs1) }

/-- The `sc.w` at `a` succeeds: a reservation of that word, and no spurious failure (R342, log 12). -/
def scSucceeds (a : Word) (s : State) : Bool := s.reservation == some a && !s.now.scFail

/-- R342: store if the reservation holds; 0 or 1 in `rd`; the reservation is gone either way. -/
def execScW (rd rs2 rs1 : Reg) (_aq _rl : BitVec 1) (s : State) : Result :=
  if misaligned (readReg s rs1) 4 then .next (storeMisaligned (readReg s rs1) s)
  else if (placeOf s.cfg (readReg s rs1)).isDevice then .refused .atomicOnDevice
  else if scSucceeds (readReg s rs1) s then
    match memWrite (readReg s rs1) 4 (readReg s rs2) { s with reservation := none } with
    | .error r => .refused r
    | .ok s1 => retireWrite rd 0#32 4#32 s1
  else retireWrite rd 1#32 4#32 { s with reservation := none }

/-- `f(t, s)` of `amoswap.w` (R343). -/
def amoSwap (_t v : Word) : Word := v
/-- `f(t, s)` of `amomin.w` (R348). -/
def amoMin (t v : Word) : Word := if ltSigned t v then t else v
/-- `f(t, s)` of `amomax.w` (R349). -/
def amoMax (t v : Word) : Word := if ltSigned v t then t else v
/-- `f(t, s)` of `amominu.w` (R350). -/
def amoMinu (t v : Word) : Word := if ltUnsigned t v then t else v
/-- `f(t, s)` of `amomaxu.w` (R351). -/
def amoMaxu (t v : Word) : Word := if ltUnsigned v t then t else v

/-- R343. -/
def execAmoswapW (rd rs2 rs1 : Reg) (_aq _rl : BitVec 1) (s : State) : Result :=
  amoOp amoSwap rd rs2 rs1 s

/-- R344. -/
def execAmoaddW (rd rs2 rs1 : Reg) (_aq _rl : BitVec 1) (s : State) : Result :=
  amoOp (· + ·) rd rs2 rs1 s

/-- R345. -/
def execAmoxorW (rd rs2 rs1 : Reg) (_aq _rl : BitVec 1) (s : State) : Result :=
  amoOp (· ^^^ ·) rd rs2 rs1 s

/-- R346. -/
def execAmoandW (rd rs2 rs1 : Reg) (_aq _rl : BitVec 1) (s : State) : Result :=
  amoOp (· &&& ·) rd rs2 rs1 s

/-- R347. -/
def execAmoorW (rd rs2 rs1 : Reg) (_aq _rl : BitVec 1) (s : State) : Result :=
  amoOp (· ||| ·) rd rs2 rs1 s

/-- R348. -/
def execAmominW (rd rs2 rs1 : Reg) (_aq _rl : BitVec 1) (s : State) : Result :=
  amoOp amoMin rd rs2 rs1 s

/-- R349. -/
def execAmomaxW (rd rs2 rs1 : Reg) (_aq _rl : BitVec 1) (s : State) : Result :=
  amoOp amoMax rd rs2 rs1 s

/-- R350. -/
def execAmominuW (rd rs2 rs1 : Reg) (_aq _rl : BitVec 1) (s : State) : Result :=
  amoOp amoMinu rd rs2 rs1 s

/-- R351. -/
def execAmomaxuW (rd rs2 rs1 : Reg) (_aq _rl : BitVec 1) (s : State) : Result :=
  amoOp amoMaxu rd rs2 rs1 s

end Sys2Proof.Machine
end

