-- ==== Sys2Proof/Machine/Control.lean ====
section
/-! DEFINITION. The eight control transfer instructions (spec/41_rv32i_control.md R240 to R249). Targets are relative to the
instruction's own address; no target can be misaligned; no delay slot. -/

namespace Sys2Proof.Machine

/-- A conditional branch of `len` bytes with offset `off`: taken iff `c` (R240, R360). -/
def branchOp (c : Bool) (off len : Word) (s : State) : Result :=
  retireTo (if c then s.pc + off else s.pc + len) s

/-- A jump of `len` bytes to `target`, with the link `pc + len` in `rd` (R241, R242). -/
def jumpOp (rd : Reg) (target len : Word) (s : State) : Result :=
  retireTo target (setReg rd (s.pc + len) s)

/-- R241: `x[rd] <- pc + 4`, `pc <- pc + offset`. -/
def execJal (rd : Reg) (off : BitVec 20) (s : State) : Result :=
  jumpOp rd (s.pc + offJ off) 4#32 s

/-- R242: `x[rd] <- pc + 4`, `pc <- (x[rs1] + offset) & 0xFFFFFFFE`; `x[rs1]` is read first. -/
def execJalr (rd rs1 : Reg) (imm : BitVec 12) (s : State) : Result :=
  jumpOp rd (clearBit0 (readReg s rs1 + immI imm)) 4#32 s

/-- R243: branch if equal. -/
def execBeq (rs1 rs2 : Reg) (off : BitVec 12) (s : State) : Result :=
  branchOp (readReg s rs1 == readReg s rs2) (offB off) 4#32 s

/-- R244: branch if not equal. -/
def execBne (rs1 rs2 : Reg) (off : BitVec 12) (s : State) : Result :=
  branchOp (readReg s rs1 != readReg s rs2) (offB off) 4#32 s

/-- R245: branch if less than, signed. -/
def execBlt (rs1 rs2 : Reg) (off : BitVec 12) (s : State) : Result :=
  branchOp (ltSigned (readReg s rs1) (readReg s rs2)) (offB off) 4#32 s

/-- R246: branch if greater than or equal, signed. -/
def execBge (rs1 rs2 : Reg) (off : BitVec 12) (s : State) : Result :=
  branchOp (geSigned (readReg s rs1) (readReg s rs2)) (offB off) 4#32 s

/-- R247: branch if less than, unsigned. -/
def execBltu (rs1 rs2 : Reg) (off : BitVec 12) (s : State) : Result :=
  branchOp (ltUnsigned (readReg s rs1) (readReg s rs2)) (offB off) 4#32 s

/-- R248: branch if greater than or equal, unsigned. -/
def execBgeu (rs1 rs2 : Reg) (off : BitVec 12) (s : State) : Result :=
  branchOp (geUnsigned (readReg s rs1) (readReg s rs2)) (offB off) 4#32 s

end Sys2Proof.Machine
end

