-- ==== Sys2Proof/Machine/Compressed.lean ====
section
/-! DEFINITION. Compressed instructions (spec/46_c_compressed.md R360 to R389): the effect of the expansion, with a length of two
bytes (R362). Hints (R176) need no special case. -/

namespace Sys2Proof.Machine

/-- R363: add scaled immediate to x2. -/
def execCAddi4spn (rd : CReg) (nz : BitVec 8) (s : State) : Result :=
  retireWrite (cReg rd) (readReg s 2#5 + imm4spn nz) 2#32 s

/-- R364: load word. -/
def execCLw (rd rs1 : CReg) (u : BitVec 5) (s : State) : Result :=
  loadOp (cReg rd) (readReg s (cReg rs1) + immLw u) 4 id 2#32 s

/-- R365: store word. -/
def execCSw (rs2 rs1 : CReg) (u : BitVec 5) (s : State) : Result :=
  storeOp (readReg s (cReg rs1) + immLw u) 4 (readReg s (cReg rs2)) 2#32 s

/-- R366: nothing but the pc and the count; the immediate is a hint. -/
def execCNop (_imm : BitVec 6) (s : State) : Result :=
  retire 2#32 s

/-- R367: `x[rd] <- x[rd] + imm`. -/
def execCAddi (rd : Reg) (imm : BitVec 6) (s : State) : Result :=
  retireWrite rd (readReg s rd + imm6 imm) 2#32 s

/-- R368: `x[1] <- pc + 2`, `pc <- pc + offset`. -/
def execCJal (off : BitVec 11) (s : State) : Result :=
  jumpOp 1#5 (s.pc + offCJ off) 2#32 s

/-- R369: `x[rd] <- imm`. -/
def execCLi (rd : Reg) (imm : BitVec 6) (s : State) : Result :=
  retireWrite rd (imm6 imm) 2#32 s

/-- R370: `x[2] <- x[2] + nzimm`. -/
def execCAddi16sp (nz : BitVec 6) (s : State) : Result :=
  retireWrite 2#5 (readReg s 2#5 + imm16sp nz) 2#32 s

/-- R371: `x[rd] <- nzimm`. -/
def execCLui (rd : Reg) (nz : BitVec 6) (s : State) : Result :=
  retireWrite rd (immCLui nz) 2#32 s

/-- R372: logical right shift. -/
def execCSrli (rd : CReg) (shamt : BitVec 5) (s : State) : Result :=
  retireWrite (cReg rd) (readReg s (cReg rd) >>> shamt.toNat) 2#32 s

/-- R373: arithmetic right shift. -/
def execCSrai (rd : CReg) (shamt : BitVec 5) (s : State) : Result :=
  retireWrite (cReg rd) ((readReg s (cReg rd)).sshiftRight shamt.toNat) 2#32 s

/-- R374: and immediate. -/
def execCAndi (rd : CReg) (imm : BitVec 6) (s : State) : Result :=
  retireWrite (cReg rd) (readReg s (cReg rd) &&& imm6 imm) 2#32 s

/-- R375: subtract. -/
def execCSub (rd rs2 : CReg) (s : State) : Result :=
  retireWrite (cReg rd) (readReg s (cReg rd) - readReg s (cReg rs2)) 2#32 s

/-- R376: exclusive or. -/
def execCXor (rd rs2 : CReg) (s : State) : Result :=
  retireWrite (cReg rd) (readReg s (cReg rd) ^^^ readReg s (cReg rs2)) 2#32 s

/-- R377: or. -/
def execCOr (rd rs2 : CReg) (s : State) : Result :=
  retireWrite (cReg rd) (readReg s (cReg rd) ||| readReg s (cReg rs2)) 2#32 s

/-- R378: and. -/
def execCAnd (rd rs2 : CReg) (s : State) : Result :=
  retireWrite (cReg rd) (readReg s (cReg rd) &&& readReg s (cReg rs2)) 2#32 s

/-- R379: `pc <- pc + offset`. -/
def execCJ (off : BitVec 11) (s : State) : Result :=
  retireTo (s.pc + offCJ off) s

/-- R380: branch if zero. -/
def execCBeqz (rs1 : CReg) (off : BitVec 8) (s : State) : Result :=
  branchOp (readReg s (cReg rs1) == 0#32) (offCB off) 2#32 s

/-- R381: branch if not zero. -/
def execCBnez (rs1 : CReg) (off : BitVec 8) (s : State) : Result :=
  branchOp (readReg s (cReg rs1) != 0#32) (offCB off) 2#32 s

/-- R382: logical left shift. -/
def execCSlli (rd : Reg) (shamt : BitVec 5) (s : State) : Result :=
  retireWrite rd (readReg s rd <<< shamt.toNat) 2#32 s

/-- R383: load word from the stack. -/
def execCLwsp (rd : Reg) (u : BitVec 6) (s : State) : Result :=
  loadOp rd (readReg s 2#5 + immSp u) 4 id 2#32 s

/-- R384: `pc <- x[rs1] & 0xFFFFFFFE`. -/
def execCJr (rs1 : Reg) (s : State) : Result :=
  retireTo (clearBit0 (readReg s rs1)) s

/-- R385: `x[rd] <- x[rs2]`. -/
def execCMv (rd rs2 : Reg) (s : State) : Result :=
  retireWrite rd (readReg s rs2) 2#32 s

/-- R386: takes exception 3, as `ebreak`. -/
def execCEbreak (s : State) : Result := .next (breakpoint s)

/-- R387: `x[1] <- pc + 2`, `pc <- x[rs1] & 0xFFFFFFFE`, the old `x[rs1]`. -/
def execCJalr (rs1 : Reg) (s : State) : Result :=
  jumpOp 1#5 (clearBit0 (readReg s rs1)) 2#32 s

/-- R388: `x[rd] <- x[rd] + x[rs2]`. -/
def execCAdd (rd rs2 : Reg) (s : State) : Result :=
  retireWrite rd (readReg s rd + readReg s rs2) 2#32 s

/-- R389: store word to the stack. -/
def execCSwsp (rs2 : Reg) (u : BitVec 6) (s : State) : Result :=
  storeOp (readReg s 2#5 + immSp u) 4 (readReg s rs2) 2#32 s

end Sys2Proof.Machine
end

