-- ==== Sys2Proof/Machine/Integer.lean ====
section
/-! DEFINITION. The 21 integer computational instructions (spec/40_rv32i_integer.md R200 to R222). Sources are read before `rd`
is written; every result is modulo 2^32; none traps; the next pc is `pc + 4`. -/

namespace Sys2Proof.Machine

/-- R201: `x[rd] <- imm20 << 12`. -/
def execLui (rd : Reg) (imm20 : BitVec 20) (s : State) : Result :=
  retireWrite rd (immU imm20) 4#32 s

/-- R202: `x[rd] <- pc + (imm20 << 12)`. -/
def execAuipc (rd : Reg) (imm20 : BitVec 20) (s : State) : Result :=
  retireWrite rd (s.pc + immU imm20) 4#32 s

/-- R203: `x[rd] <- x[rs1] + imm`. -/
def execAddi (rd rs1 : Reg) (imm : BitVec 12) (s : State) : Result :=
  retireWrite rd (readReg s rs1 + immI imm) 4#32 s

/-- R204: 1 if `x[rs1] < imm` signed, else 0. -/
def execSlti (rd rs1 : Reg) (imm : BitVec 12) (s : State) : Result :=
  retireWrite rd (boolWord (ltSigned (readReg s rs1) (immI imm))) 4#32 s

/-- R205: 1 if `x[rs1] < imm` unsigned, `imm` sign-extended first, else 0. -/
def execSltiu (rd rs1 : Reg) (imm : BitVec 12) (s : State) : Result :=
  retireWrite rd (boolWord (ltUnsigned (readReg s rs1) (immI imm))) 4#32 s

/-- R206: `x[rd] <- x[rs1] ^ imm`. -/
def execXori (rd rs1 : Reg) (imm : BitVec 12) (s : State) : Result :=
  retireWrite rd (readReg s rs1 ^^^ immI imm) 4#32 s

/-- R207: `x[rd] <- x[rs1] | imm`. -/
def execOri (rd rs1 : Reg) (imm : BitVec 12) (s : State) : Result :=
  retireWrite rd (readReg s rs1 ||| immI imm) 4#32 s

/-- R208: `x[rd] <- x[rs1] & imm`. -/
def execAndi (rd rs1 : Reg) (imm : BitVec 12) (s : State) : Result :=
  retireWrite rd (readReg s rs1 &&& immI imm) 4#32 s

/-- R209: logical left shift by `shamt`. -/
def execSlli (rd rs1 : Reg) (shamt : BitVec 5) (s : State) : Result :=
  retireWrite rd (readReg s rs1 <<< shamt.toNat) 4#32 s

/-- R210: logical right shift by `shamt`. -/
def execSrli (rd rs1 : Reg) (shamt : BitVec 5) (s : State) : Result :=
  retireWrite rd (readReg s rs1 >>> shamt.toNat) 4#32 s

/-- R211: arithmetic right shift by `shamt`. -/
def execSrai (rd rs1 : Reg) (shamt : BitVec 5) (s : State) : Result :=
  retireWrite rd ((readReg s rs1).sshiftRight shamt.toNat) 4#32 s

/-- R212: `x[rd] <- x[rs1] + x[rs2]`. -/
def execAdd (rd rs1 rs2 : Reg) (s : State) : Result :=
  retireWrite rd (readReg s rs1 + readReg s rs2) 4#32 s

/-- R213: `x[rd] <- x[rs1] - x[rs2]`. -/
def execSub (rd rs1 rs2 : Reg) (s : State) : Result :=
  retireWrite rd (readReg s rs1 - readReg s rs2) 4#32 s

/-- R214: logical left shift by `x[rs2][4:0]`. -/
def execSll (rd rs1 rs2 : Reg) (s : State) : Result :=
  retireWrite rd (readReg s rs1 <<< shiftAmount (readReg s rs2)) 4#32 s

/-- R215: 1 if `x[rs1] < x[rs2]` signed, else 0. -/
def execSlt (rd rs1 rs2 : Reg) (s : State) : Result :=
  retireWrite rd (boolWord (ltSigned (readReg s rs1) (readReg s rs2))) 4#32 s

/-- R216: 1 if `x[rs1] < x[rs2]` unsigned, else 0. -/
def execSltu (rd rs1 rs2 : Reg) (s : State) : Result :=
  retireWrite rd (boolWord (ltUnsigned (readReg s rs1) (readReg s rs2))) 4#32 s

/-- R217: `x[rd] <- x[rs1] ^ x[rs2]`. -/
def execXor (rd rs1 rs2 : Reg) (s : State) : Result :=
  retireWrite rd (readReg s rs1 ^^^ readReg s rs2) 4#32 s

/-- R218: logical right shift by `x[rs2][4:0]`. -/
def execSrl (rd rs1 rs2 : Reg) (s : State) : Result :=
  retireWrite rd (readReg s rs1 >>> shiftAmount (readReg s rs2)) 4#32 s

/-- R219: arithmetic right shift by `x[rs2][4:0]`. -/
def execSra (rd rs1 rs2 : Reg) (s : State) : Result :=
  retireWrite rd ((readReg s rs1).sshiftRight (shiftAmount (readReg s rs2))) 4#32 s

/-- R220: `x[rd] <- x[rs1] | x[rs2]`. -/
def execOr (rd rs1 rs2 : Reg) (s : State) : Result :=
  retireWrite rd (readReg s rs1 ||| readReg s rs2) 4#32 s

/-- R221: `x[rd] <- x[rs1] & x[rs2]`. -/
def execAnd (rd rs1 rs2 : Reg) (s : State) : Result :=
  retireWrite rd (readReg s rs1 &&& readReg s rs2) 4#32 s

end Sys2Proof.Machine
end

