-- ==== Sys2Proof/Machine/LoadStore.lean ====
section
/-! DEFINITION. Loads, stores and fences (spec/42_rv32i_loadstore.md R260 to R271). The effective address is `x[rs1] + offset`
modulo 2^32; alignment is checked first, then the access is made. -/

namespace Sys2Proof.Machine

/-- R261: load byte, sign-extended. -/
def execLb (rd rs1 : Reg) (imm : BitVec 12) (s : State) : Result :=
  loadOp rd (readReg s rs1 + immI imm) 1 signExtend8 4#32 s

/-- R262: load halfword, sign-extended. -/
def execLh (rd rs1 : Reg) (imm : BitVec 12) (s : State) : Result :=
  loadOp rd (readReg s rs1 + immI imm) 2 signExtend16 4#32 s

/-- R263: load word. -/
def execLw (rd rs1 : Reg) (imm : BitVec 12) (s : State) : Result :=
  loadOp rd (readReg s rs1 + immI imm) 4 id 4#32 s

/-- R264: load byte, zero-extended. -/
def execLbu (rd rs1 : Reg) (imm : BitVec 12) (s : State) : Result :=
  loadOp rd (readReg s rs1 + immI imm) 1 id 4#32 s

/-- R265: load halfword, zero-extended. -/
def execLhu (rd rs1 : Reg) (imm : BitVec 12) (s : State) : Result :=
  loadOp rd (readReg s rs1 + immI imm) 2 id 4#32 s

/-- R266: store byte. -/
def execSb (rs2 rs1 : Reg) (imm : BitVec 12) (s : State) : Result :=
  storeOp (readReg s rs1 + immI imm) 1 (readReg s rs2) 4#32 s

/-- R267: store halfword. -/
def execSh (rs2 rs1 : Reg) (imm : BitVec 12) (s : State) : Result :=
  storeOp (readReg s rs1 + immI imm) 2 (readReg s rs2) 4#32 s

/-- R268: store word. -/
def execSw (rs2 rs1 : Reg) (imm : BitVec 12) (s : State) : Result :=
  storeOp (readReg s rs1 + immI imm) 4 (readReg s rs2) 4#32 s

/-- R270: no architectural state changes but the pc and the count; every field is ignored (R142, log 22). -/
def execFence (_fm _pred _succ : BitVec 4) (_rs1 _rd : Reg) (s : State) : Result :=
  retire 4#32 s

/-- R271: ends the window in which a fetch may see old bytes (R143); its fields are ignored. -/
def execFenceI (_imm : BitVec 12) (_rs1 _rd : Reg) (s : State) : Result :=
  retire 4#32 { s with stale := [] }

end Sys2Proof.Machine
end

