-- ==== Sys2Proof/Machine/MulDiv.lean ====
section
/-! DEFINITION. Multiply and divide (spec/44_m_muldiv.md R320 to R330). Products are exact integers of which 32 bits are taken;
no division traps. -/

namespace Sys2Proof.Machine

/-- Bits 63:32 of a product, as two's complement (R322). -/
def highWord (p : Int) : Word := BitVec.ofInt 32 (p / 2 ^ 32)

/-- Signed quotient (R326): rounded toward zero, all ones for divisor 0, -2^31 on overflow. -/
def divSigned (a b : Word) : Word :=
  if b.toInt = 0 then 0xFFFFFFFF#32
  else if a.toInt = -2 ^ 31 ∧ b.toInt = -1 then 0x80000000#32
  else BitVec.ofInt 32 (a.toInt.tdiv b.toInt)

/-- Unsigned quotient (R327). -/
def divUnsigned (a b : Word) : Word :=
  if b.toNat = 0 then 0xFFFFFFFF#32 else BitVec.ofNat 32 (a.toNat / b.toNat)

/-- Signed remainder (R328): the sign of the dividend, the dividend for divisor 0, 0 on overflow. -/
def remSigned (a b : Word) : Word :=
  if b.toInt = 0 then a
  else if a.toInt = -2 ^ 31 ∧ b.toInt = -1 then 0#32
  else BitVec.ofInt 32 (a.toInt - b.toInt * a.toInt.tdiv b.toInt)

/-- Unsigned remainder (R329). -/
def remUnsigned (a b : Word) : Word :=
  if b.toNat = 0 then a else BitVec.ofNat 32 (a.toNat % b.toNat)

/-- R321: low 32 bits of the product. -/
def execMul (rd rs1 rs2 : Reg) (s : State) : Result :=
  retireWrite rd (readReg s rs1 * readReg s rs2) 4#32 s

/-- R322: high 32 bits, signed by signed. -/
def execMulh (rd rs1 rs2 : Reg) (s : State) : Result :=
  retireWrite rd (highWord ((readReg s rs1).toInt * (readReg s rs2).toInt)) 4#32 s

/-- R323: high 32 bits, signed by unsigned. -/
def execMulhsu (rd rs1 rs2 : Reg) (s : State) : Result :=
  retireWrite rd (highWord ((readReg s rs1).toInt * (readReg s rs2).toNat)) 4#32 s

/-- R324: high 32 bits, unsigned by unsigned. -/
def execMulhu (rd rs1 rs2 : Reg) (s : State) : Result :=
  retireWrite rd (highWord ((readReg s rs1).toNat * (readReg s rs2).toNat)) 4#32 s

/-- R326: signed division. -/
def execDiv (rd rs1 rs2 : Reg) (s : State) : Result :=
  retireWrite rd (divSigned (readReg s rs1) (readReg s rs2)) 4#32 s

/-- R327: unsigned division. -/
def execDivu (rd rs1 rs2 : Reg) (s : State) : Result :=
  retireWrite rd (divUnsigned (readReg s rs1) (readReg s rs2)) 4#32 s

/-- R328: signed remainder. -/
def execRem (rd rs1 rs2 : Reg) (s : State) : Result :=
  retireWrite rd (remSigned (readReg s rs1) (readReg s rs2)) 4#32 s

/-- R329: unsigned remainder. -/
def execRemu (rd rs1 rs2 : Reg) (s : State) : Result :=
  retireWrite rd (remUnsigned (readReg s rs1) (readReg s rs2)) 4#32 s

end Sys2Proof.Machine
end

