-- ==== Sys2Proof/Syntax.lean ====
section
/-! DEFINITION. The 95 instructions of spec/opcode_table.json, one constructor per row, in the table's order
(spec/30_encoding.md R167, R173). An operand is the bit field of the encoding, its bits in significance order; an
offset without its always-zero low bit keeps only the encoded bits. Fields a decoder must ignore (`fence`, `fence.i`,
the immediate of `c.nop`) are kept, so that encoding a decoded instruction gives its word back. -/

namespace Sys2Proof

/-- The instruction set RV32IMAC (R2). -/
inductive Instr where
  -- RV32I (R167)
  | lui (rd : Reg) (imm20 : BitVec 20)
  | auipc (rd : Reg) (imm20 : BitVec 20)
  /-- `off` is offset[20:1]. -/
  | jal (rd : Reg) (off : BitVec 20)
  | jalr (rd rs1 : Reg) (imm : BitVec 12)
  /-- For the six branches `off` is offset[12:1]. -/
  | beq (rs1 rs2 : Reg) (off : BitVec 12)
  | bne (rs1 rs2 : Reg) (off : BitVec 12)
  | blt (rs1 rs2 : Reg) (off : BitVec 12)
  | bge (rs1 rs2 : Reg) (off : BitVec 12)
  | bltu (rs1 rs2 : Reg) (off : BitVec 12)
  | bgeu (rs1 rs2 : Reg) (off : BitVec 12)
  | lb (rd rs1 : Reg) (imm : BitVec 12)
  | lh (rd rs1 : Reg) (imm : BitVec 12)
  | lw (rd rs1 : Reg) (imm : BitVec 12)
  | lbu (rd rs1 : Reg) (imm : BitVec 12)
  | lhu (rd rs1 : Reg) (imm : BitVec 12)
  | sb (rs2 rs1 : Reg) (imm : BitVec 12)
  | sh (rs2 rs1 : Reg) (imm : BitVec 12)
  | sw (rs2 rs1 : Reg) (imm : BitVec 12)
  | addi (rd rs1 : Reg) (imm : BitVec 12)
  | slti (rd rs1 : Reg) (imm : BitVec 12)
  | sltiu (rd rs1 : Reg) (imm : BitVec 12)
  | xori (rd rs1 : Reg) (imm : BitVec 12)
  | ori (rd rs1 : Reg) (imm : BitVec 12)
  | andi (rd rs1 : Reg) (imm : BitVec 12)
  | slli (rd rs1 : Reg) (shamt : BitVec 5)
  | srli (rd rs1 : Reg) (shamt : BitVec 5)
  | srai (rd rs1 : Reg) (shamt : BitVec 5)
  | add (rd rs1 rs2 : Reg)
  | sub (rd rs1 rs2 : Reg)
  | sll (rd rs1 rs2 : Reg)
  | slt (rd rs1 rs2 : Reg)
  | sltu (rd rs1 rs2 : Reg)
  | xor (rd rs1 rs2 : Reg)
  | srl (rd rs1 rs2 : Reg)
  | sra (rd rs1 rs2 : Reg)
  | or (rd rs1 rs2 : Reg)
  | and (rd rs1 rs2 : Reg)
  /-- `fm`, `rs1` and `rd` are ignored (R165). -/
  | fence (fm pred succ : BitVec 4) (rs1 rd : Reg)
  /-- All three fields are ignored (R271). -/
  | fenceI (imm : BitVec 12) (rs1 rd : Reg)
  | ecall
  | ebreak
  | mret
  | wfi
  | csrrw (rd : Reg) (csr : BitVec 12) (rs1 : Reg)
  | csrrs (rd : Reg) (csr : BitVec 12) (rs1 : Reg)
  | csrrc (rd : Reg) (csr : BitVec 12) (rs1 : Reg)
  | csrrwi (rd : Reg) (csr : BitVec 12) (uimm : BitVec 5)
  | csrrsi (rd : Reg) (csr : BitVec 12) (uimm : BitVec 5)
  | csrrci (rd : Reg) (csr : BitVec 12) (uimm : BitVec 5)
  -- M
  | mul (rd rs1 rs2 : Reg)
  | mulh (rd rs1 rs2 : Reg)
  | mulhsu (rd rs1 rs2 : Reg)
  | mulhu (rd rs1 rs2 : Reg)
  | div (rd rs1 rs2 : Reg)
  | divu (rd rs1 rs2 : Reg)
  | rem (rd rs1 rs2 : Reg)
  | remu (rd rs1 rs2 : Reg)
  -- A
  | lrW (rd rs1 : Reg) (aq rl : BitVec 1)
  | scW (rd rs2 rs1 : Reg) (aq rl : BitVec 1)
  | amoswapW (rd rs2 rs1 : Reg) (aq rl : BitVec 1)
  | amoaddW (rd rs2 rs1 : Reg) (aq rl : BitVec 1)
  | amoxorW (rd rs2 rs1 : Reg) (aq rl : BitVec 1)
  | amoandW (rd rs2 rs1 : Reg) (aq rl : BitVec 1)
  | amoorW (rd rs2 rs1 : Reg) (aq rl : BitVec 1)
  | amominW (rd rs2 rs1 : Reg) (aq rl : BitVec 1)
  | amomaxW (rd rs2 rs1 : Reg) (aq rl : BitVec 1)
  | amominuW (rd rs2 rs1 : Reg) (aq rl : BitVec 1)
  | amomaxuW (rd rs2 rs1 : Reg) (aq rl : BitVec 1)
  -- C (R173)
  /-- `nz` is nzuimm[9:2]. -/
  | cAddi4spn (rd : CReg) (nz : BitVec 8)
  /-- `u` is uimm[6:2]. -/
  | cLw (rd rs1 : CReg) (u : BitVec 5)
  | cSw (rs2 rs1 : CReg) (u : BitVec 5)
  | cNop (imm : BitVec 6)
  | cAddi (rd : Reg) (imm : BitVec 6)
  /-- `off` is offset[11:1]. -/
  | cJal (off : BitVec 11)
  | cLi (rd : Reg) (imm : BitVec 6)
  /-- `nz` is nzimm[9:4]. -/
  | cAddi16sp (nz : BitVec 6)
  /-- `nz` is nzimm[17:12]. -/
  | cLui (rd : Reg) (nz : BitVec 6)
  | cSrli (rd : CReg) (shamt : BitVec 5)
  | cSrai (rd : CReg) (shamt : BitVec 5)
  | cAndi (rd : CReg) (imm : BitVec 6)
  | cSub (rd rs2 : CReg)
  | cXor (rd rs2 : CReg)
  | cOr (rd rs2 : CReg)
  | cAnd (rd rs2 : CReg)
  | cJ (off : BitVec 11)
  /-- `off` is offset[8:1]. -/
  | cBeqz (rs1 : CReg) (off : BitVec 8)
  | cBnez (rs1 : CReg) (off : BitVec 8)
  | cSlli (rd : Reg) (shamt : BitVec 5)
  /-- `u` is uimm[7:2]. -/
  | cLwsp (rd : Reg) (u : BitVec 6)
  | cJr (rs1 : Reg)
  | cMv (rd rs2 : Reg)
  | cEbreak
  | cJalr (rs1 : Reg)
  | cAdd (rd rs2 : Reg)
  | cSwsp (rs2 : Reg) (u : BitVec 6)
deriving DecidableEq, Repr

end Sys2Proof
end

