-- ==== Sys2Proof/WellFormed.lean ====
section
/-! DEFINITION. The constraints of spec/30_encoding.md R173 and R175 that a 16-bit row adds to its bit pattern: an
instruction that breaks one has no encoding of its own (the bits are reserved, or another row's). Every 32-bit
instruction is well formed for every value of its fields (R167). -/

namespace Sys2Proof

/-- Do the operands of `i` meet the "further constraint" of its row in R173? -/
def Instr.wellFormed : Instr → Bool
  | .cAddi4spn _ nz => nz != 0#8
  | .cAddi rd _ => rd != 0#5
  | .cAddi16sp nz => nz != 0#6
  | .cLui rd nz => rd != 2#5 && nz != 0#6
  | .cLwsp rd _ => rd != 0#5
  | .cJr rs1 => rs1 != 0#5
  | .cMv _ rs2 => rs2 != 0#5
  | .cJalr rs1 => rs1 != 0#5
  | .cAdd _ rs2 => rs2 != 0#5
  | .lui _ _ | .auipc _ _ | .jal _ _ | .jalr _ _ _ => true
  | .beq _ _ _ | .bne _ _ _ | .blt _ _ _ | .bge _ _ _ | .bltu _ _ _ | .bgeu _ _ _ => true
  | .lb _ _ _ | .lh _ _ _ | .lw _ _ _ | .lbu _ _ _ | .lhu _ _ _ | .sb _ _ _ | .sh _ _ _ | .sw _ _ _ => true
  | .addi _ _ _ | .slti _ _ _ | .sltiu _ _ _ | .xori _ _ _ | .ori _ _ _ | .andi _ _ _ => true
  | .slli _ _ _ | .srli _ _ _ | .srai _ _ _ => true
  | .add _ _ _ | .sub _ _ _ | .sll _ _ _ | .slt _ _ _ | .sltu _ _ _ | .xor _ _ _ => true
  | .srl _ _ _ | .sra _ _ _ | .or _ _ _ | .and _ _ _ => true
  | .fence _ _ _ _ _ | .fenceI _ _ _ => true
  | .ecall | .ebreak | .mret | .wfi => true
  | .csrrw _ _ _ | .csrrs _ _ _ | .csrrc _ _ _ | .csrrwi _ _ _ | .csrrsi _ _ _ | .csrrci _ _ _ => true
  | .mul _ _ _ | .mulh _ _ _ | .mulhsu _ _ _ | .mulhu _ _ _ => true
  | .div _ _ _ | .divu _ _ _ | .rem _ _ _ | .remu _ _ _ => true
  | .lrW _ _ _ _ | .scW _ _ _ _ _ | .amoswapW _ _ _ _ _ | .amoaddW _ _ _ _ _ | .amoxorW _ _ _ _ _ => true
  | .amoandW _ _ _ _ _ | .amoorW _ _ _ _ _ | .amominW _ _ _ _ _ | .amomaxW _ _ _ _ _ => true
  | .amominuW _ _ _ _ _ | .amomaxuW _ _ _ _ _ => true
  | .cLw _ _ _ | .cSw _ _ _ | .cNop _ | .cJal _ | .cLi _ _ | .cSrli _ _ | .cSrai _ _ | .cAndi _ _ => true
  | .cSub _ _ | .cXor _ _ | .cOr _ _ | .cAnd _ _ | .cJ _ | .cBeqz _ _ | .cBnez _ _ => true
  | .cSlli _ _ | .cEbreak | .cSwsp _ _ => true

end Sys2Proof
end

