-- ==== Sys2Proof/Decode.lean ====
section
/-! DEFINITION. Decoding and encoding of instructions (spec/30_encoding.md). The encoder is written from the format
tables R163, R165, R169, R170 and the match columns of R167 and R173; the decoder is written from the field table
R162, the opcode map R166, the decoding function R174 and the catalogues of reserved encodings R168 and R175. -/

namespace Sys2Proof

/-- A fetched instruction: one 16-bit parcel or a 32-bit word (R160). -/
inductive Code where
  | half (h : Half)
  | word (w : Word)
deriving DecidableEq, Repr

/-- Length in bytes (R161). -/
def Code.length : Code → Nat
  | .half _ => 2
  | .word _ => 4

/-- What Illegal Instruction writes to `mtval`: the word, or the parcel zero-extended (R408). -/
def Code.value : Code → Word
  | .half h => h.zeroExtend 32
  | .word w => w

/-- The bytes of the instruction in memory, lowest address first: little-endian (R123). -/
def Code.bytes : Code → List Byte
  | .half h => [h.extractLsb' 0 8, h.extractLsb' 8 8]
  | .word w => [w.extractLsb' 0 8, w.extractLsb' 8 8, w.extractLsb' 16 8, w.extractLsb' 24 8]

/-! ## 32-bit formats (R163, R165) -/

/-- R format. -/
def rWord (funct7 : BitVec 7) (rs2 rs1 : Reg) (funct3 : BitVec 3) (rd : Reg) (opcode : BitVec 7) : Word :=
  funct7 ++ rs2 ++ rs1 ++ funct3 ++ rd ++ opcode

/-- I format; also I-csr and I-csri, whose immediate is the CSR address. -/
def iWord (imm : BitVec 12) (rs1 : Reg) (funct3 : BitVec 3) (rd : Reg) (opcode : BitVec 7) : Word :=
  imm ++ rs1 ++ funct3 ++ rd ++ opcode

/-- S format. -/
def sWord (imm : BitVec 12) (rs2 rs1 : Reg) (funct3 : BitVec 3) (opcode : BitVec 7) : Word :=
  imm.extractLsb' 5 7 ++ rs2 ++ rs1 ++ funct3 ++ imm.extractLsb' 0 5 ++ opcode

/-- B format; `off` is offset[12:1], so offset bit k is bit k - 1 of `off`. -/
def bWord (off : BitVec 12) (rs2 rs1 : Reg) (funct3 : BitVec 3) (opcode : BitVec 7) : Word :=
  off.extractLsb' 11 1 ++ off.extractLsb' 4 6 ++ rs2 ++ rs1 ++ funct3 ++ off.extractLsb' 0 4
    ++ off.extractLsb' 10 1 ++ opcode

/-- U format. -/
def uWord (imm20 : BitVec 20) (rd : Reg) (opcode : BitVec 7) : Word := imm20 ++ rd ++ opcode

/-- J format; `off` is offset[20:1]. -/
def jWord (off : BitVec 20) (rd : Reg) (opcode : BitVec 7) : Word :=
  off.extractLsb' 19 1 ++ off.extractLsb' 0 10 ++ off.extractLsb' 10 1 ++ off.extractLsb' 11 8 ++ rd ++ opcode

/-- R-amo format: funct3 010, opcode AMO. -/
def amoWord (funct5 : BitVec 5) (aq rl : BitVec 1) (rs2 rs1 rd : Reg) : Word :=
  funct5 ++ aq ++ rl ++ rs2 ++ rs1 ++ 0b010#3 ++ rd ++ 0b0101111#7

/-- I-fence format: the five 4- and 5-bit fields and funct3 000. -/
def fenceWord (fm pred succ : BitVec 4) (rs1 rd : Reg) : Word :=
  fm ++ pred ++ succ ++ rs1 ++ 0b000#3 ++ rd ++ 0b0001111#7

/-! ## 16-bit formats (R169, R170) -/

/-- CIW format of `c.addi4spn`; `nz` is nzuimm[9:2]. -/
def ciwHalf (nz : BitVec 8) (rd : CReg) : Half :=
  0b000#3 ++ nz.extractLsb' 2 2 ++ nz.extractLsb' 4 4 ++ nz.extractLsb' 0 1 ++ nz.extractLsb' 1 1 ++ rd ++ 0b00#2

/-- CL and CS formats of `c.lw` and `c.sw`; `u` is uimm[6:2]. -/
def clHalf (funct3 : BitVec 3) (u : BitVec 5) (rs1 r : CReg) : Half :=
  funct3 ++ u.extractLsb' 1 3 ++ rs1 ++ u.extractLsb' 0 1 ++ u.extractLsb' 4 1 ++ r ++ 0b00#2

/-- CI format with a 6-bit immediate: bit 5 in `h[12]`, bits 4:0 in `h[6:2]`. -/
def ciHalf (funct3 : BitVec 3) (imm : BitVec 6) (rd : Reg) (op : BitVec 2) : Half :=
  funct3 ++ imm.extractLsb' 5 1 ++ rd ++ imm.extractLsb' 0 5 ++ op

/-- CI format of `c.addi16sp`; `nz` is nzimm[9:4]. -/
def ci16spHalf (nz : BitVec 6) : Half :=
  0b011#3 ++ nz.extractLsb' 5 1 ++ 0b00010#5 ++ nz.extractLsb' 0 1 ++ nz.extractLsb' 2 1 ++ nz.extractLsb' 3 2
    ++ nz.extractLsb' 1 1 ++ 0b01#2

/-- CJ format; `off` is offset[11:1]. -/
def cjHalf (funct3 : BitVec 3) (off : BitVec 11) : Half :=
  funct3 ++ off.extractLsb' 10 1 ++ off.extractLsb' 3 1 ++ off.extractLsb' 7 2 ++ off.extractLsb' 9 1
    ++ off.extractLsb' 5 1 ++ off.extractLsb' 6 1 ++ off.extractLsb' 0 3 ++ off.extractLsb' 4 1 ++ 0b01#2

/-- CB format of the two branches; `off` is offset[8:1]. -/
def cbHalf (funct3 : BitVec 3) (off : BitVec 8) (rs1 : CReg) : Half :=
  funct3 ++ off.extractLsb' 7 1 ++ off.extractLsb' 2 2 ++ rs1 ++ off.extractLsb' 5 2 ++ off.extractLsb' 0 2
    ++ off.extractLsb' 4 1 ++ 0b01#2

/-- CB-imm and CB-shift formats: `f2` in `h[11:10]`, a 6-bit immediate as in CI. -/
def cbImmHalf (f2 : BitVec 2) (imm : BitVec 6) (rd : CReg) : Half :=
  0b100#3 ++ imm.extractLsb' 5 1 ++ f2 ++ rd ++ imm.extractLsb' 0 5 ++ 0b01#2

/-- CA format: `h[15:10]` is 100011, `f2` in `h[6:5]`. -/
def caHalf (f2 : BitVec 2) (rd rs2 : CReg) : Half := 0b100011#6 ++ rd ++ f2 ++ rs2 ++ 0b01#2

/-- CR format: funct4 in `h[15:12]`. -/
def crHalf (funct4 : BitVec 4) (rd rs2 : Reg) : Half := funct4 ++ rd ++ rs2 ++ 0b10#2

/-- CI format of `c.lwsp`; `u` is uimm[7:2]. -/
def lwspHalf (u : BitVec 6) (rd : Reg) : Half :=
  0b010#3 ++ u.extractLsb' 3 1 ++ rd ++ u.extractLsb' 0 3 ++ u.extractLsb' 4 2 ++ 0b10#2

/-- CSS format of `c.swsp`; `u` is uimm[7:2]. -/
def swspHalf (u : BitVec 6) (rs2 : Reg) : Half :=
  0b110#3 ++ u.extractLsb' 0 4 ++ u.extractLsb' 4 2 ++ rs2 ++ 0b10#2

/-! ## The encoder -/

/-- The word or parcel of an instruction: the match columns of R167 and R173 with the operand fields filled in. -/
def encode : Instr → Code
  | .lui rd i => .word (uWord i rd 0b0110111#7)
  | .auipc rd i => .word (uWord i rd 0b0010111#7)
  | .jal rd o => .word (jWord o rd 0b1101111#7)
  | .jalr rd rs1 i => .word (iWord i rs1 0b000#3 rd 0b1100111#7)
  | .beq rs1 rs2 o => .word (bWord o rs2 rs1 0b000#3 0b1100011#7)
  | .bne rs1 rs2 o => .word (bWord o rs2 rs1 0b001#3 0b1100011#7)
  | .blt rs1 rs2 o => .word (bWord o rs2 rs1 0b100#3 0b1100011#7)
  | .bge rs1 rs2 o => .word (bWord o rs2 rs1 0b101#3 0b1100011#7)
  | .bltu rs1 rs2 o => .word (bWord o rs2 rs1 0b110#3 0b1100011#7)
  | .bgeu rs1 rs2 o => .word (bWord o rs2 rs1 0b111#3 0b1100011#7)
  | .lb rd rs1 i => .word (iWord i rs1 0b000#3 rd 0b0000011#7)
  | .lh rd rs1 i => .word (iWord i rs1 0b001#3 rd 0b0000011#7)
  | .lw rd rs1 i => .word (iWord i rs1 0b010#3 rd 0b0000011#7)
  | .lbu rd rs1 i => .word (iWord i rs1 0b100#3 rd 0b0000011#7)
  | .lhu rd rs1 i => .word (iWord i rs1 0b101#3 rd 0b0000011#7)
  | .sb rs2 rs1 i => .word (sWord i rs2 rs1 0b000#3 0b0100011#7)
  | .sh rs2 rs1 i => .word (sWord i rs2 rs1 0b001#3 0b0100011#7)
  | .sw rs2 rs1 i => .word (sWord i rs2 rs1 0b010#3 0b0100011#7)
  | .addi rd rs1 i => .word (iWord i rs1 0b000#3 rd 0b0010011#7)
  | .slti rd rs1 i => .word (iWord i rs1 0b010#3 rd 0b0010011#7)
  | .sltiu rd rs1 i => .word (iWord i rs1 0b011#3 rd 0b0010011#7)
  | .xori rd rs1 i => .word (iWord i rs1 0b100#3 rd 0b0010011#7)
  | .ori rd rs1 i => .word (iWord i rs1 0b110#3 rd 0b0010011#7)
  | .andi rd rs1 i => .word (iWord i rs1 0b111#3 rd 0b0010011#7)
  | .slli rd rs1 sh => .word (rWord 0b0000000#7 sh rs1 0b001#3 rd 0b0010011#7)
  | .srli rd rs1 sh => .word (rWord 0b0000000#7 sh rs1 0b101#3 rd 0b0010011#7)
  | .srai rd rs1 sh => .word (rWord 0b0100000#7 sh rs1 0b101#3 rd 0b0010011#7)
  | .add rd rs1 rs2 => .word (rWord 0b0000000#7 rs2 rs1 0b000#3 rd 0b0110011#7)
  | .sub rd rs1 rs2 => .word (rWord 0b0100000#7 rs2 rs1 0b000#3 rd 0b0110011#7)
  | .sll rd rs1 rs2 => .word (rWord 0b0000000#7 rs2 rs1 0b001#3 rd 0b0110011#7)
  | .slt rd rs1 rs2 => .word (rWord 0b0000000#7 rs2 rs1 0b010#3 rd 0b0110011#7)
  | .sltu rd rs1 rs2 => .word (rWord 0b0000000#7 rs2 rs1 0b011#3 rd 0b0110011#7)
  | .xor rd rs1 rs2 => .word (rWord 0b0000000#7 rs2 rs1 0b100#3 rd 0b0110011#7)
  | .srl rd rs1 rs2 => .word (rWord 0b0000000#7 rs2 rs1 0b101#3 rd 0b0110011#7)
  | .sra rd rs1 rs2 => .word (rWord 0b0100000#7 rs2 rs1 0b101#3 rd 0b0110011#7)
  | .or rd rs1 rs2 => .word (rWord 0b0000000#7 rs2 rs1 0b110#3 rd 0b0110011#7)
  | .and rd rs1 rs2 => .word (rWord 0b0000000#7 rs2 rs1 0b111#3 rd 0b0110011#7)
  | .fence fm p sc rs1 rd => .word (fenceWord fm p sc rs1 rd)
  | .fenceI i rs1 rd => .word (iWord i rs1 0b001#3 rd 0b0001111#7)
  | .ecall => .word 0x00000073#32
  | .ebreak => .word 0x00100073#32
  | .mret => .word 0x30200073#32
  | .wfi => .word 0x10500073#32
  | .csrrw rd c rs1 => .word (iWord c rs1 0b001#3 rd 0b1110011#7)
  | .csrrs rd c rs1 => .word (iWord c rs1 0b010#3 rd 0b1110011#7)
  | .csrrc rd c rs1 => .word (iWord c rs1 0b011#3 rd 0b1110011#7)
  | .csrrwi rd c u => .word (iWord c u 0b101#3 rd 0b1110011#7)
  | .csrrsi rd c u => .word (iWord c u 0b110#3 rd 0b1110011#7)
  | .csrrci rd c u => .word (iWord c u 0b111#3 rd 0b1110011#7)
  | .mul rd rs1 rs2 => .word (rWord 0b0000001#7 rs2 rs1 0b000#3 rd 0b0110011#7)
  | .mulh rd rs1 rs2 => .word (rWord 0b0000001#7 rs2 rs1 0b001#3 rd 0b0110011#7)
  | .mulhsu rd rs1 rs2 => .word (rWord 0b0000001#7 rs2 rs1 0b010#3 rd 0b0110011#7)
  | .mulhu rd rs1 rs2 => .word (rWord 0b0000001#7 rs2 rs1 0b011#3 rd 0b0110011#7)
  | .div rd rs1 rs2 => .word (rWord 0b0000001#7 rs2 rs1 0b100#3 rd 0b0110011#7)
  | .divu rd rs1 rs2 => .word (rWord 0b0000001#7 rs2 rs1 0b101#3 rd 0b0110011#7)
  | .rem rd rs1 rs2 => .word (rWord 0b0000001#7 rs2 rs1 0b110#3 rd 0b0110011#7)
  | .remu rd rs1 rs2 => .word (rWord 0b0000001#7 rs2 rs1 0b111#3 rd 0b0110011#7)
  | .lrW rd rs1 aq rl => .word (amoWord 0b00010#5 aq rl 0b00000#5 rs1 rd)
  | .scW rd rs2 rs1 aq rl => .word (amoWord 0b00011#5 aq rl rs2 rs1 rd)
  | .amoswapW rd rs2 rs1 aq rl => .word (amoWord 0b00001#5 aq rl rs2 rs1 rd)
  | .amoaddW rd rs2 rs1 aq rl => .word (amoWord 0b00000#5 aq rl rs2 rs1 rd)
  | .amoxorW rd rs2 rs1 aq rl => .word (amoWord 0b00100#5 aq rl rs2 rs1 rd)
  | .amoandW rd rs2 rs1 aq rl => .word (amoWord 0b01100#5 aq rl rs2 rs1 rd)
  | .amoorW rd rs2 rs1 aq rl => .word (amoWord 0b01000#5 aq rl rs2 rs1 rd)
  | .amominW rd rs2 rs1 aq rl => .word (amoWord 0b10000#5 aq rl rs2 rs1 rd)
  | .amomaxW rd rs2 rs1 aq rl => .word (amoWord 0b10100#5 aq rl rs2 rs1 rd)
  | .amominuW rd rs2 rs1 aq rl => .word (amoWord 0b11000#5 aq rl rs2 rs1 rd)
  | .amomaxuW rd rs2 rs1 aq rl => .word (amoWord 0b11100#5 aq rl rs2 rs1 rd)
  | .cAddi4spn rd nz => .half (ciwHalf nz rd)
  | .cLw rd rs1 u => .half (clHalf 0b010#3 u rs1 rd)
  | .cSw rs2 rs1 u => .half (clHalf 0b110#3 u rs1 rs2)
  | .cNop i => .half (ciHalf 0b000#3 i 0b00000#5 0b01#2)
  | .cAddi rd i => .half (ciHalf 0b000#3 i rd 0b01#2)
  | .cJal o => .half (cjHalf 0b001#3 o)
  | .cLi rd i => .half (ciHalf 0b010#3 i rd 0b01#2)
  | .cAddi16sp nz => .half (ci16spHalf nz)
  | .cLui rd nz => .half (ciHalf 0b011#3 nz rd 0b01#2)
  | .cSrli rd sh => .half (cbImmHalf 0b00#2 (0b0#1 ++ sh) rd)
  | .cSrai rd sh => .half (cbImmHalf 0b01#2 (0b0#1 ++ sh) rd)
  | .cAndi rd i => .half (cbImmHalf 0b10#2 i rd)
  | .cSub rd rs2 => .half (caHalf 0b00#2 rd rs2)
  | .cXor rd rs2 => .half (caHalf 0b01#2 rd rs2)
  | .cOr rd rs2 => .half (caHalf 0b10#2 rd rs2)
  | .cAnd rd rs2 => .half (caHalf 0b11#2 rd rs2)
  | .cJ o => .half (cjHalf 0b101#3 o)
  | .cBeqz rs1 o => .half (cbHalf 0b110#3 o rs1)
  | .cBnez rs1 o => .half (cbHalf 0b111#3 o rs1)
  | .cSlli rd sh => .half (ciHalf 0b000#3 (0b0#1 ++ sh) rd 0b10#2)
  | .cLwsp rd u => .half (lwspHalf u rd)
  | .cJr rs1 => .half (crHalf 0b1000#4 rs1 0b00000#5)
  | .cMv rd rs2 => .half (crHalf 0b1000#4 rd rs2)
  | .cEbreak => .half 0x9002#16
  | .cJalr rs1 => .half (crHalf 0b1001#4 rs1 0b00000#5)
  | .cAdd rd rs2 => .half (crHalf 0b1001#4 rd rs2)
  | .cSwsp rs2 u => .half (swspHalf u rs2)

/-! ## Fields of a 32-bit word (R162, R164) -/

def fieldOpcode (w : Word) : BitVec 7 := w.extractLsb' 0 7
def fieldRd (w : Word) : Reg := w.extractLsb' 7 5
def fieldFunct3 (w : Word) : BitVec 3 := w.extractLsb' 12 3
def fieldRs1 (w : Word) : Reg := w.extractLsb' 15 5
def fieldRs2 (w : Word) : Reg := w.extractLsb' 20 5
def fieldFunct7 (w : Word) : BitVec 7 := w.extractLsb' 25 7
def fieldFunct5 (w : Word) : BitVec 5 := w.extractLsb' 27 5
def fieldAq (w : Word) : BitVec 1 := w.extractLsb' 26 1
def fieldRl (w : Word) : BitVec 1 := w.extractLsb' 25 1

/-- I immediate, or the CSR address. -/
def fieldImmI (w : Word) : BitVec 12 := w.extractLsb' 20 12
/-- S immediate. -/
def fieldImmS (w : Word) : BitVec 12 := w.extractLsb' 25 7 ++ w.extractLsb' 7 5
/-- B offset[12:1]. -/
def fieldOffB (w : Word) : BitVec 12 :=
  w.extractLsb' 31 1 ++ w.extractLsb' 7 1 ++ w.extractLsb' 25 6 ++ w.extractLsb' 8 4
/-- U immediate: the 20 bits of `w[31:12]`. -/
def fieldImmU (w : Word) : BitVec 20 := w.extractLsb' 12 20
/-- J offset[20:1]. -/
def fieldOffJ (w : Word) : BitVec 20 :=
  w.extractLsb' 31 1 ++ w.extractLsb' 12 8 ++ w.extractLsb' 20 1 ++ w.extractLsb' 21 10

/-! ## Decoding a 32-bit word (R166 to R168) -/

def decodeBranch (w : Word) : Option Instr :=
  match fieldFunct3 w with
  | 0b000#3 => some (.beq (fieldRs1 w) (fieldRs2 w) (fieldOffB w))
  | 0b001#3 => some (.bne (fieldRs1 w) (fieldRs2 w) (fieldOffB w))
  | 0b100#3 => some (.blt (fieldRs1 w) (fieldRs2 w) (fieldOffB w))
  | 0b101#3 => some (.bge (fieldRs1 w) (fieldRs2 w) (fieldOffB w))
  | 0b110#3 => some (.bltu (fieldRs1 w) (fieldRs2 w) (fieldOffB w))
  | 0b111#3 => some (.bgeu (fieldRs1 w) (fieldRs2 w) (fieldOffB w))
  | _ => none

def decodeLoad (w : Word) : Option Instr :=
  match fieldFunct3 w with
  | 0b000#3 => some (.lb (fieldRd w) (fieldRs1 w) (fieldImmI w))
  | 0b001#3 => some (.lh (fieldRd w) (fieldRs1 w) (fieldImmI w))
  | 0b010#3 => some (.lw (fieldRd w) (fieldRs1 w) (fieldImmI w))
  | 0b100#3 => some (.lbu (fieldRd w) (fieldRs1 w) (fieldImmI w))
  | 0b101#3 => some (.lhu (fieldRd w) (fieldRs1 w) (fieldImmI w))
  | _ => none

def decodeStore (w : Word) : Option Instr :=
  match fieldFunct3 w with
  | 0b000#3 => some (.sb (fieldRs2 w) (fieldRs1 w) (fieldImmS w))
  | 0b001#3 => some (.sh (fieldRs2 w) (fieldRs1 w) (fieldImmS w))
  | 0b010#3 => some (.sw (fieldRs2 w) (fieldRs1 w) (fieldImmS w))
  | _ => none

def decodeOpImm (w : Word) : Option Instr :=
  match fieldFunct3 w with
  | 0b000#3 => some (.addi (fieldRd w) (fieldRs1 w) (fieldImmI w))
  | 0b010#3 => some (.slti (fieldRd w) (fieldRs1 w) (fieldImmI w))
  | 0b011#3 => some (.sltiu (fieldRd w) (fieldRs1 w) (fieldImmI w))
  | 0b100#3 => some (.xori (fieldRd w) (fieldRs1 w) (fieldImmI w))
  | 0b110#3 => some (.ori (fieldRd w) (fieldRs1 w) (fieldImmI w))
  | 0b111#3 => some (.andi (fieldRd w) (fieldRs1 w) (fieldImmI w))
  | 0b001#3 =>
    match fieldFunct7 w with
    | 0b0000000#7 => some (.slli (fieldRd w) (fieldRs1 w) (fieldRs2 w))
    | _ => none
  | _ =>
    match fieldFunct7 w with
    | 0b0000000#7 => some (.srli (fieldRd w) (fieldRs1 w) (fieldRs2 w))
    | 0b0100000#7 => some (.srai (fieldRd w) (fieldRs1 w) (fieldRs2 w))
    | _ => none

def decodeOp (w : Word) : Option Instr :=
  match fieldFunct7 w, fieldFunct3 w with
  | 0b0000000#7, 0b000#3 => some (.add (fieldRd w) (fieldRs1 w) (fieldRs2 w))
  | 0b0000000#7, 0b001#3 => some (.sll (fieldRd w) (fieldRs1 w) (fieldRs2 w))
  | 0b0000000#7, 0b010#3 => some (.slt (fieldRd w) (fieldRs1 w) (fieldRs2 w))
  | 0b0000000#7, 0b011#3 => some (.sltu (fieldRd w) (fieldRs1 w) (fieldRs2 w))
  | 0b0000000#7, 0b100#3 => some (.xor (fieldRd w) (fieldRs1 w) (fieldRs2 w))
  | 0b0000000#7, 0b101#3 => some (.srl (fieldRd w) (fieldRs1 w) (fieldRs2 w))
  | 0b0000000#7, 0b110#3 => some (.or (fieldRd w) (fieldRs1 w) (fieldRs2 w))
  | 0b0000000#7, 0b111#3 => some (.and (fieldRd w) (fieldRs1 w) (fieldRs2 w))
  | 0b0100000#7, 0b000#3 => some (.sub (fieldRd w) (fieldRs1 w) (fieldRs2 w))
  | 0b0100000#7, 0b101#3 => some (.sra (fieldRd w) (fieldRs1 w) (fieldRs2 w))
  | 0b0000001#7, 0b000#3 => some (.mul (fieldRd w) (fieldRs1 w) (fieldRs2 w))
  | 0b0000001#7, 0b001#3 => some (.mulh (fieldRd w) (fieldRs1 w) (fieldRs2 w))
  | 0b0000001#7, 0b010#3 => some (.mulhsu (fieldRd w) (fieldRs1 w) (fieldRs2 w))
  | 0b0000001#7, 0b011#3 => some (.mulhu (fieldRd w) (fieldRs1 w) (fieldRs2 w))
  | 0b0000001#7, 0b100#3 => some (.div (fieldRd w) (fieldRs1 w) (fieldRs2 w))
  | 0b0000001#7, 0b101#3 => some (.divu (fieldRd w) (fieldRs1 w) (fieldRs2 w))
  | 0b0000001#7, 0b110#3 => some (.rem (fieldRd w) (fieldRs1 w) (fieldRs2 w))
  | 0b0000001#7, 0b111#3 => some (.remu (fieldRd w) (fieldRs1 w) (fieldRs2 w))
  | _, _ => none

def decodeMiscMem (w : Word) : Option Instr :=
  match fieldFunct3 w with
  | 0b000#3 =>
    some (.fence (w.extractLsb' 28 4) (w.extractLsb' 24 4) (w.extractLsb' 20 4) (fieldRs1 w) (fieldRd w))
  | 0b001#3 => some (.fenceI (fieldImmI w) (fieldRs1 w) (fieldRd w))
  | _ => none

/-- With funct3 000 only four whole words are instructions (R311). -/
def decodeSystem (w : Word) : Option Instr :=
  match fieldFunct3 w with
  | 0b000#3 =>
    if w = 0x00000073#32 then some .ecall
    else if w = 0x00100073#32 then some .ebreak
    else if w = 0x30200073#32 then some .mret
    else if w = 0x10500073#32 then some .wfi
    else none
  | 0b001#3 => some (.csrrw (fieldRd w) (fieldImmI w) (fieldRs1 w))
  | 0b010#3 => some (.csrrs (fieldRd w) (fieldImmI w) (fieldRs1 w))
  | 0b011#3 => some (.csrrc (fieldRd w) (fieldImmI w) (fieldRs1 w))
  | 0b101#3 => some (.csrrwi (fieldRd w) (fieldImmI w) (fieldRs1 w))
  | 0b110#3 => some (.csrrsi (fieldRd w) (fieldImmI w) (fieldRs1 w))
  | 0b111#3 => some (.csrrci (fieldRd w) (fieldImmI w) (fieldRs1 w))
  | _ => none

def decodeAmo (w : Word) : Option Instr :=
  match fieldFunct3 w with
  | 0b010#3 =>
    match fieldFunct5 w with
    | 0b00010#5 =>
      if fieldRs2 w = 0b00000#5 then some (.lrW (fieldRd w) (fieldRs1 w) (fieldAq w) (fieldRl w)) else none
    | 0b00011#5 => some (.scW (fieldRd w) (fieldRs2 w) (fieldRs1 w) (fieldAq w) (fieldRl w))
    | 0b00001#5 => some (.amoswapW (fieldRd w) (fieldRs2 w) (fieldRs1 w) (fieldAq w) (fieldRl w))
    | 0b00000#5 => some (.amoaddW (fieldRd w) (fieldRs2 w) (fieldRs1 w) (fieldAq w) (fieldRl w))
    | 0b00100#5 => some (.amoxorW (fieldRd w) (fieldRs2 w) (fieldRs1 w) (fieldAq w) (fieldRl w))
    | 0b01100#5 => some (.amoandW (fieldRd w) (fieldRs2 w) (fieldRs1 w) (fieldAq w) (fieldRl w))
    | 0b01000#5 => some (.amoorW (fieldRd w) (fieldRs2 w) (fieldRs1 w) (fieldAq w) (fieldRl w))
    | 0b10000#5 => some (.amominW (fieldRd w) (fieldRs2 w) (fieldRs1 w) (fieldAq w) (fieldRl w))
    | 0b10100#5 => some (.amomaxW (fieldRd w) (fieldRs2 w) (fieldRs1 w) (fieldAq w) (fieldRl w))
    | 0b11000#5 => some (.amominuW (fieldRd w) (fieldRs2 w) (fieldRs1 w) (fieldAq w) (fieldRl w))
    | 0b11100#5 => some (.amomaxuW (fieldRd w) (fieldRs2 w) (fieldRs1 w) (fieldAq w) (fieldRl w))
    | _ => none
  | _ => none

/-- The instruction of a 32-bit word, if it has one: the opcode map R166, with every unused cell illegal. -/
def decode32 (w : Word) : Option Instr :=
  match fieldOpcode w with
  | 0b0110111#7 => some (.lui (fieldRd w) (fieldImmU w))
  | 0b0010111#7 => some (.auipc (fieldRd w) (fieldImmU w))
  | 0b1101111#7 => some (.jal (fieldRd w) (fieldOffJ w))
  | 0b1100111#7 =>
    match fieldFunct3 w with
    | 0b000#3 => some (.jalr (fieldRd w) (fieldRs1 w) (fieldImmI w))
    | _ => none
  | 0b1100011#7 => decodeBranch w
  | 0b0000011#7 => decodeLoad w
  | 0b0100011#7 => decodeStore w
  | 0b0010011#7 => decodeOpImm w
  | 0b0110011#7 => decodeOp w
  | 0b0001111#7 => decodeMiscMem w
  | 0b1110011#7 => decodeSystem w
  | 0b0101111#7 => decodeAmo w
  | _ => none

/-! ## Decoding a 16-bit parcel (R170, R174, R175) -/

/-- `rd`/`rs1` in `h[11:7]`. -/
def cfieldRd (h : Half) : Reg := h.extractLsb' 7 5
/-- `rs2` in `h[6:2]`. -/
def cfieldRs2 (h : Half) : Reg := h.extractLsb' 2 5
/-- Primed register in `h[9:7]`. -/
def cfieldRs1' (h : Half) : CReg := h.extractLsb' 7 3
/-- Primed register in `h[4:2]`. -/
def cfieldRd' (h : Half) : CReg := h.extractLsb' 2 3
/-- Bit 12: the top bit of a 6-bit immediate, shamt[5], or the selector of quadrant 2. -/
def cfieldBit12 (h : Half) : BitVec 1 := h.extractLsb' 12 1
/-- The 6-bit immediate of CI and CB-imm. -/
def cfieldImm6 (h : Half) : BitVec 6 := h.extractLsb' 12 1 ++ h.extractLsb' 2 5
/-- nzuimm[9:2] of `c.addi4spn`. -/
def cfield4spn (h : Half) : BitVec 8 :=
  h.extractLsb' 7 4 ++ h.extractLsb' 11 2 ++ h.extractLsb' 5 1 ++ h.extractLsb' 6 1
/-- uimm[6:2] of `c.lw` and `c.sw`. -/
def cfieldLw (h : Half) : BitVec 5 := h.extractLsb' 5 1 ++ h.extractLsb' 10 3 ++ h.extractLsb' 6 1
/-- nzimm[9:4] of `c.addi16sp`. -/
def cfield16sp (h : Half) : BitVec 6 :=
  h.extractLsb' 12 1 ++ h.extractLsb' 3 2 ++ h.extractLsb' 5 1 ++ h.extractLsb' 2 1 ++ h.extractLsb' 6 1
/-- offset[11:1] of `c.j` and `c.jal`. -/
def cfieldJ (h : Half) : BitVec 11 :=
  h.extractLsb' 12 1 ++ h.extractLsb' 8 1 ++ h.extractLsb' 9 2 ++ h.extractLsb' 6 1 ++ h.extractLsb' 7 1
    ++ h.extractLsb' 2 1 ++ h.extractLsb' 11 1 ++ h.extractLsb' 3 3
/-- offset[8:1] of `c.beqz` and `c.bnez`. -/
def cfieldB (h : Half) : BitVec 8 :=
  h.extractLsb' 12 1 ++ h.extractLsb' 5 2 ++ h.extractLsb' 2 1 ++ h.extractLsb' 10 2 ++ h.extractLsb' 3 2
/-- uimm[7:2] of `c.lwsp`. -/
def cfieldLwsp (h : Half) : BitVec 6 := h.extractLsb' 2 2 ++ h.extractLsb' 12 1 ++ h.extractLsb' 4 3
/-- uimm[7:2] of `c.swsp`. -/
def cfieldSwsp (h : Half) : BitVec 6 := h.extractLsb' 7 2 ++ h.extractLsb' 9 4

/-- Quadrant 1, funct3 100 (R172). -/
def decodeCMisc (h : Half) : Option Instr :=
  match h.extractLsb' 10 2 with
  | 0b00#2 => if cfieldBit12 h = 1#1 then none else some (.cSrli (cfieldRs1' h) (cfieldRs2 h))
  | 0b01#2 => if cfieldBit12 h = 1#1 then none else some (.cSrai (cfieldRs1' h) (cfieldRs2 h))
  | 0b10#2 => some (.cAndi (cfieldRs1' h) (cfieldImm6 h))
  | _ =>
    if cfieldBit12 h = 1#1 then none
    else
      match h.extractLsb' 5 2 with
      | 0b00#2 => some (.cSub (cfieldRs1' h) (cfieldRd' h))
      | 0b01#2 => some (.cXor (cfieldRs1' h) (cfieldRd' h))
      | 0b10#2 => some (.cOr (cfieldRs1' h) (cfieldRd' h))
      | _ => some (.cAnd (cfieldRs1' h) (cfieldRd' h))

/-- Quadrant 2, funct3 100 (R172). -/
def decodeCReg (h : Half) : Option Instr :=
  if cfieldBit12 h = 0#1 then
    if cfieldRs2 h = 0#5 then
      if cfieldRd h = 0#5 then none else some (.cJr (cfieldRd h))
    else some (.cMv (cfieldRd h) (cfieldRs2 h))
  else
    if cfieldRs2 h = 0#5 then
      if cfieldRd h = 0#5 then some .cEbreak else some (.cJalr (cfieldRd h))
    else some (.cAdd (cfieldRd h) (cfieldRs2 h))

/-- Quadrant 0. The all-zero parcel falls under the zero immediate of `c.addi4spn`. -/
def decodeQ0 (h : Half) : Option Instr :=
  match h.extractLsb' 13 3 with
  | 0b000#3 => if cfield4spn h = 0#8 then none else some (.cAddi4spn (cfieldRd' h) (cfield4spn h))
  | 0b010#3 => some (.cLw (cfieldRd' h) (cfieldRs1' h) (cfieldLw h))
  | 0b110#3 => some (.cSw (cfieldRd' h) (cfieldRs1' h) (cfieldLw h))
  | _ => none

/-- Quadrant 1. -/
def decodeQ1 (h : Half) : Option Instr :=
  match h.extractLsb' 13 3 with
  | 0b000#3 => if cfieldRd h = 0#5 then some (.cNop (cfieldImm6 h)) else some (.cAddi (cfieldRd h) (cfieldImm6 h))
  | 0b001#3 => some (.cJal (cfieldJ h))
  | 0b010#3 => some (.cLi (cfieldRd h) (cfieldImm6 h))
  | 0b011#3 =>
    if cfieldRd h = 2#5 then
      if cfield16sp h = 0#6 then none else some (.cAddi16sp (cfield16sp h))
    else if cfieldImm6 h = 0#6 then none else some (.cLui (cfieldRd h) (cfieldImm6 h))
  | 0b100#3 => decodeCMisc h
  | 0b101#3 => some (.cJ (cfieldJ h))
  | 0b110#3 => some (.cBeqz (cfieldRs1' h) (cfieldB h))
  | _ => some (.cBnez (cfieldRs1' h) (cfieldB h))

/-- Quadrant 2. -/
def decodeQ2 (h : Half) : Option Instr :=
  match h.extractLsb' 13 3 with
  | 0b000#3 => if cfieldBit12 h = 1#1 then none else some (.cSlli (cfieldRd h) (cfieldRs2 h))
  | 0b010#3 => if cfieldRd h = 0#5 then none else some (.cLwsp (cfieldRd h) (cfieldLwsp h))
  | 0b100#3 => decodeCReg h
  | 0b110#3 => some (.cSwsp (cfieldRs2 h) (cfieldSwsp h))
  | _ => none

/-- The instruction of a 16-bit parcel, if it has one (R174). Quadrant 11 is the 32-bit space. -/
def decode16 (h : Half) : Option Instr :=
  match h.extractLsb' 0 2 with
  | 0b00#2 => decodeQ0 h
  | 0b01#2 => decodeQ1 h
  | 0b10#2 => decodeQ2 h
  | _ => none

/-- Does the first parcel announce a 32-bit instruction (R161)? -/
def isWide (h : Half) : Bool := h.extractLsb' 0 2 == 0b11#2

/-- Decoding of what was fetched. -/
def decodeCode : Code → Option Instr
  | .half h => if isWide h then none else decode16 h
  | .word w => decode32 w

/-- Why a byte sequence is no instruction. -/
inductive DecodeError where
  /-- Fewer bytes than the length R161 gives. -/
  | truncated
  /-- A 16-bit parcel of R175, or no row of R173. -/
  | illegalParcel (h : Half)
  /-- A 32-bit word of R168, or no row of R167. -/
  | illegalWord (w : Word)
deriving DecidableEq, Repr

/-- Decode the first instruction of a byte sequence, lowest address first; answers the instruction and the bytes
after it, or the reason why there is none. -/
def decode : List Byte → Except DecodeError (Instr × List Byte)
  | b0 :: b1 :: rest =>
    if isWide (b1 ++ b0) then
      match rest with
      | b2 :: b3 :: rest' =>
        match decode32 (b3 ++ b2 ++ b1 ++ b0) with
        | some i => .ok (i, rest')
        | none => .error (.illegalWord (b3 ++ b2 ++ b1 ++ b0))
      | _ => .error .truncated
    else
      match decode16 (b1 ++ b0) with
      | some i => .ok (i, rest)
      | none => .error (.illegalParcel (b1 ++ b0))
  | _ => .error .truncated

/-- The low `nbits` bits of `w` laid out in memory as four bytes, higher bits 0: the instruction as the opcode table
numbers its bits. -/
def tableBytes (nbits w : Nat) : List Byte := (Code.word (BitVec.ofNat 32 (w % 2 ^ nbits))).bytes

/-- What the decoder reads from an opcode-table word. -/
def decodeTableWord (nbits w : Nat) : Option Instr :=
  match decode (tableBytes nbits w) with
  | .ok (i, _) => some i
  | .error _ => none

end Sys2Proof
end

