-- ==== Sys2Proof/Machine/Csr.lean ====
section
/-! DEFINITION. CSR access (spec/10_state.md R29 to R69, spec/43_system_csr.md R284 to R308): the address map, the
permission check, `CSRread` and `CSRwrite`, and the CSR addresses whose access is an operation. -/

namespace Sys2Proof.Machine

/-- The CSR addresses that read and write as registers (R29, R296). -/
inductive CsrReg where
  | mvendorid | marchid | mimpid | mhartid
  | mstatus | misa | mie | mtvec | mcounteren | mtvt | mcountinhibit
  | mscratch | mepc | mcause | mtval | mip | mintstatus
  | mcycle | mcycleh | minstret | minstreth
  | cycle | time | instret | cycleh | timeh | instreth
  | mnvec | msubm | mmiscCtl | msavestatus
  | msaveepc1 | msavecause1 | msaveepc2 | msavecause2
  | mtvt2 | wfe | sleepvalue | txevt
deriving DecidableEq, Repr

/-- The CSR addresses whose access is an operation (R303 to R308). -/
inductive CsrOp where
  | mnxti | mscratchcsw | mscratchcswl | pushmsubm | jalmnxti | pushmcause | pushmepc
deriving DecidableEq, Repr

/-- What a CSR address names. -/
inductive CsrName where
  | reg (r : CsrReg)
  | op (o : CsrOp)
deriving DecidableEq, Repr

/-- The access attribute of a row of R29: Machine or User mode, read-write or read-only. No row is URW. -/
inductive CsrAttr where
  | mrw
  | mro
  | uro
deriving DecidableEq, Repr

/-- The address table of R29. -/
def csrOfAddr (a : BitVec 12) : Option CsrName :=
  match a with
  | 0xF11#12 => some (.reg .mvendorid)
  | 0xF12#12 => some (.reg .marchid)
  | 0xF13#12 => some (.reg .mimpid)
  | 0xF14#12 => some (.reg .mhartid)
  | 0x300#12 => some (.reg .mstatus)
  | 0x301#12 => some (.reg .misa)
  | 0x304#12 => some (.reg .mie)
  | 0x305#12 => some (.reg .mtvec)
  | 0x306#12 => some (.reg .mcounteren)
  | 0x307#12 => some (.reg .mtvt)
  | 0x320#12 => some (.reg .mcountinhibit)
  | 0x340#12 => some (.reg .mscratch)
  | 0x341#12 => some (.reg .mepc)
  | 0x342#12 => some (.reg .mcause)
  | 0x343#12 => some (.reg .mtval)
  | 0x344#12 => some (.reg .mip)
  | 0x345#12 => some (.op .mnxti)
  | 0x346#12 => some (.reg .mintstatus)
  | 0x348#12 => some (.op .mscratchcsw)
  | 0x349#12 => some (.op .mscratchcswl)
  | 0xB00#12 => some (.reg .mcycle)
  | 0xB80#12 => some (.reg .mcycleh)
  | 0xB02#12 => some (.reg .minstret)
  | 0xB82#12 => some (.reg .minstreth)
  | 0xC00#12 => some (.reg .cycle)
  | 0xC01#12 => some (.reg .time)
  | 0xC02#12 => some (.reg .instret)
  | 0xC80#12 => some (.reg .cycleh)
  | 0xC81#12 => some (.reg .timeh)
  | 0xC82#12 => some (.reg .instreth)
  | 0x7C3#12 => some (.reg .mnvec)
  | 0x7C4#12 => some (.reg .msubm)
  | 0x7D0#12 => some (.reg .mmiscCtl)
  | 0x7D6#12 => some (.reg .msavestatus)
  | 0x7D7#12 => some (.reg .msaveepc1)
  | 0x7D8#12 => some (.reg .msavecause1)
  | 0x7D9#12 => some (.reg .msaveepc2)
  | 0x7DA#12 => some (.reg .msavecause2)
  | 0x7EB#12 => some (.op .pushmsubm)
  | 0x7EC#12 => some (.reg .mtvt2)
  | 0x7ED#12 => some (.op .jalmnxti)
  | 0x7EE#12 => some (.op .pushmcause)
  | 0x7EF#12 => some (.op .pushmepc)
  | 0x810#12 => some (.reg .wfe)
  | 0x811#12 => some (.reg .sleepvalue)
  | 0x812#12 => some (.reg .txevt)
  | _ => none

/-- The attribute column of R29. -/
def csrAttr : CsrName → CsrAttr
  | .reg .mvendorid | .reg .marchid | .reg .mimpid | .reg .mhartid | .reg .misa | .reg .mintstatus | .reg .mnvec => .mro
  | .reg .cycle | .reg .time | .reg .instret | .reg .cycleh | .reg .timeh | .reg .instreth => .uro
  | .reg .mstatus | .reg .mie | .reg .mtvec | .reg .mcounteren | .reg .mtvt | .reg .mcountinhibit => .mrw
  | .reg .mscratch | .reg .mepc | .reg .mcause | .reg .mtval | .reg .mip => .mrw
  | .reg .mcycle | .reg .mcycleh | .reg .minstret | .reg .minstreth => .mrw
  | .reg .msubm | .reg .mmiscCtl | .reg .msavestatus => .mrw
  | .reg .msaveepc1 | .reg .msavecause1 | .reg .msaveepc2 | .reg .msavecause2 => .mrw
  | .reg .mtvt2 | .reg .wfe | .reg .sleepvalue | .reg .txevt => .mrw
  | .op _ => .mrw

/-- The `mcounteren` bit that gates a counter in User Mode (R286); true for every other CSR. -/
def counterEnabled (s : State) : CsrName → Bool
  | .reg .cycle | .reg .cycleh => s.csr.mcounteren.cy
  | .reg .time | .reg .timeh => s.csr.mcounteren.tm
  | .reg .instret | .reg .instreth => s.csr.mcounteren.ir
  | _ => true

/-- `CSRcheck` passes (R289): the CSR exists, the mode may access it, and a write does not name a read-only one. -/
def csrAllowed (s : State) (n : CsrName) (writes : Bool) : Bool :=
  (s.cfg.hasUMode || n != .reg .mcounteren)
    && (s.priv == .M || (csrAttr n == .uro && counterEnabled s n))
    && (!writes || csrAttr n == .mrw)

/-! ## Reading (R296) -/

/-- The number of low bits of `mtvt` that read 0 (R40), by `NUM_INTERRUPT`. -/
def mtvtAlign (c : Config) : Nat :=
  if c.numInterrupt ≤ 16 then 6
  else if c.numInterrupt ≤ 32 then 7
  else if c.numInterrupt ≤ 64 then 8
  else if c.numInterrupt ≤ 128 then 9
  else if c.numInterrupt ≤ 256 then 10
  else if c.numInterrupt ≤ 512 then 11
  else if c.numInterrupt ≤ 1024 then 12
  else if c.numInterrupt ≤ 2048 then 13
  else 14

/-- A word with its low `k` bits cleared. -/
def clearLow (k : Nat) (v : Word) : Word := (v >>> k) <<< k

/-- `mstatus` as read (R35); SD is 1 iff XS is 3. -/
def mstatusValue (m : Mstatus) : Word :=
  bit (m.xs == 3#2) ++ 0#14 ++ m.xs ++ 0#2 ++ m.mpp.code ++ 0#3 ++ bit m.mpie ++ 0#3 ++ bit m.mie ++ 0#3

/-- `misa` as read (R36): bits 20 and 23 are `HAS_UMODE` and `MISA_X`. -/
def misaValue (c : Config) : Word :=
  0x40001105#32 ||| (if c.hasUMode then 0x00100000#32 else 0#32) ||| (if c.misaX then 0x00800000#32 else 0#32)

/-- `mcounteren` as read (R54). -/
def mcounterenValue (m : Mcounteren) : Word := 0#29 ++ bit m.ir ++ bit m.tm ++ bit m.cy

/-- `mcountinhibit` as read (R55). -/
def mcountinhibitValue (c : Csrs) : Word := 0#29 ++ bit c.inhibitIr ++ 0#1 ++ bit c.inhibitCy

/-- `msubm` as read (R57). -/
def msubmValue (m : Msubm) : Word := 0#22 ++ m.ptyp ++ m.typ ++ 0#6

/-- One byte of `msavestatus` (R59). -/
def savedStatusByte (v : SavedStatus) : Byte := v.ptyp ++ 0#3 ++ v.mpp.code ++ bit v.mpie

/-- `msavestatus` as read (R59). -/
def msavestatusValue (c : Csrs) : Word := 0#16 ++ savedStatusByte c.save2 ++ savedStatusByte c.save1

/-- `CSRread(csr)` (R296). -/
def csrRead (s : State) : CsrReg → Word
  | .mvendorid => s.cfg.mvendorid
  | .marchid => s.cfg.marchid
  | .mimpid => s.cfg.mimpid
  | .mhartid => s.cfg.mhartid
  | .mstatus => mstatusValue s.csr.mstatus
  | .misa => misaValue s.cfg
  | .mie => 0#32
  | .mtvec => s.csr.mtvec
  | .mcounteren => mcounterenValue s.csr.mcounteren
  | .mtvt => s.csr.mtvt
  | .mcountinhibit => mcountinhibitValue s.csr
  | .mscratch => s.csr.mscratch
  | .mepc => s.csr.mepc
  | .mcause => mcauseValue s.csr
  | .mtval => s.csr.mtval
  | .mip => 0#32
  | .mintstatus => s.csr.mil ++ 0#24
  | .mcycle => s.csr.mcycle.extractLsb' 0 32
  | .mcycleh => s.csr.mcycle.extractLsb' 32 32
  | .minstret => s.csr.minstret.extractLsb' 0 32
  | .minstreth => s.csr.minstret.extractLsb' 32 32
  | .cycle => s.csr.mcycle.extractLsb' 0 32
  | .time => s.timer.mtime.extractLsb' 0 32
  | .instret => s.csr.minstret.extractLsb' 0 32
  | .cycleh => s.csr.mcycle.extractLsb' 32 32
  | .timeh => s.timer.mtime.extractLsb' 32 32
  | .instreth => s.csr.minstret.extractLsb' 32 32
  | .mnvec => mnvecValue s
  | .msubm => msubmValue s.csr.msubm
  | .mmiscCtl => 0#22 ++ bit s.csr.nmiCauseFff ++ 0#9
  | .msavestatus => msavestatusValue s.csr
  | .msaveepc1 => s.csr.msaveepc1
  | .msavecause1 => s.csr.msavecause1
  | .msaveepc2 => s.csr.msaveepc2
  | .msavecause2 => s.csr.msavecause2
  | .mtvt2 => s.csr.commonEntry ++ 0#1 ++ bit s.csr.mtvt2en
  | .wfe => boolWord s.csr.wfe
  | .sleepvalue => boolWord s.csr.sleepvalue
  | .txevt => 0#32

/-! ## Writing (R296) -/

/-- `legalMPP(p)` (R296): 0 and 3 as written with User Mode, always 3 without; 1 and 2 give the free choice `free`
(U43, log 10). -/
def legalMpp (c : Config) (free : Bool) (p : BitVec 2) : Priv :=
  if c.hasUMode then (if p = 0#2 then .U else if p = 3#2 then .M else if free then .M else .U) else .M

/-- `mstatus` after a write of `v` (R35). -/
def mstatusWrite (c : Config) (free : Bool) (v : Word) : Mstatus where
  mie := bitOf v 3
  mpie := bitOf v 7
  mpp := legalMpp c free (v.extractLsb' 11 2)
  xs := v.extractLsb' 15 2

/-- One level of `msavestatus` after a write of its byte (R59). -/
def savedStatusWrite (c : Config) (free : Bool) (b : Byte) : SavedStatus where
  mpie := b.getLsbD 0
  mpp := legalMpp c free (b.extractLsb' 1 2)
  ptyp := b.extractLsb' 6 2

/-- The stored bits of `msavecause1`, `msavecause2`: 31:27, 23:16, 11:0 (R61). -/
def causeMask (v : Word) : Word := v &&& 0xF8FF0FFF#32

/-- `CSRwrite(csr, v)` on the CSRs of `Csrs`; `free1`, `free2` are the draws of `legalMPP`. Registers that a write
leaves alone, and the read-only ones that `CSRcheck` keeps from getting here, are unchanged. -/
def csrsWrite (c : Config) (free1 free2 : Bool) (v : Word) (k : Csrs) : CsrReg → Csrs
  | .mstatus => { k with mstatus := mstatusWrite c free1 v }
  | .mtvec => { k with mtvec := v }
  | .mcounteren => { k with mcounteren := { cy := bitOf v 0, tm := bitOf v 1, ir := bitOf v 2 } }
  | .mtvt => { k with mtvt := clearLow (mtvtAlign c) v }
  | .mcountinhibit => { k with inhibitCy := bitOf v 0, inhibitIr := bitOf v 2 }
  | .mscratch => { k with mscratch := v }
  | .mepc => { k with mepc := clearBit0 v }
  | .mcause => { k with
      mcause := causeFields v,
      mstatus := { k.mstatus with mpp := legalMpp c free1 (v.extractLsb' 28 2), mpie := bitOf v 27 } }
  | .mtval => { k with mtval := v }
  | .mcycle => { k with mcycle := k.mcycle.extractLsb' 32 32 ++ v }
  | .mcycleh => { k with mcycle := v ++ k.mcycle.extractLsb' 0 32 }
  | .minstret => { k with minstret := k.minstret.extractLsb' 32 32 ++ v }
  | .minstreth => { k with minstret := v ++ k.minstret.extractLsb' 0 32 }
  | .msubm => { k with msubm := { ptyp := v.extractLsb' 8 2, typ := v.extractLsb' 6 2 } }
  | .mmiscCtl => { k with nmiCauseFff := bitOf v 9 }
  | .msavestatus => { k with
      save1 := savedStatusWrite c free1 (v.extractLsb' 0 8),
      save2 := savedStatusWrite c free2 (v.extractLsb' 8 8) }
  | .msaveepc1 => { k with msaveepc1 := clearBit0 v }
  | .msavecause1 => { k with msavecause1 := causeMask v }
  | .msaveepc2 => { k with msaveepc2 := clearBit0 v }
  | .msavecause2 => { k with msavecause2 := causeMask v }
  | .mtvt2 => { k with commonEntry := v.extractLsb' 2 30, mtvt2en := bitOf v 0 }
  | .wfe => { k with wfe := bitOf v 0 }
  | .sleepvalue => { k with sleepvalue := bitOf v 0 }
  | .mie | .mip | .txevt => k
  | .mvendorid | .marchid | .mimpid | .mhartid | .misa | .mintstatus | .mnvec => k
  | .cycle | .time | .instret | .cycleh | .timeh | .instreth => k

/-- How many draws of `legalMPP` a write to this CSR makes. -/
def mppDraws : CsrReg → Nat
  | .mstatus => 1
  | .mcause => 1
  | .msavestatus => 2
  | _ => 0

/-- `CSRwrite(csr, v)` (R296). A write to `txevt` with bit 0 set emits one `tx_evt` pulse (R68). -/
def csrWrite (r : CsrReg) (v : Word) (s : State) : State :=
  { s with
    csr := csrsWrite s.cfg (Config.freeBit s.draws) (Config.freeBit (s.draws + 1)) v s.csr r,
    draws := s.draws + mppDraws r,
    txEvt := if r = .txevt ∧ bitOf v 0 then true else s.txEvt }

/-! ## The six CSR instructions (R284, R290 to R295) -/

/-- What a CSR instruction does with the old value. -/
inductive CsrFn where
  | write
  | set
  | clear
deriving DecidableEq, Repr

/-- Where its source comes from. -/
inductive CsrSrc where
  | reg (rs1 : Reg)
  | imm (uimm : BitVec 5)
deriving DecidableEq, Repr

/-- The value of the source operand. -/
def csrSrcValue (s : State) : CsrSrc → Word
  | .reg rs1 => readReg s rs1
  | .imm u => immCsr u

/-- The register number or the immediate is not zero. -/
def csrSrcNonzero : CsrSrc → Bool
  | .reg rs1 => rs1 != 0#5
  | .imm u => u != 0#5

/-- The "writes the CSR" column of R284: decided by the instruction and its fields alone. -/
def csrWrites (fn : CsrFn) (src : CsrSrc) : Bool := fn == .write || csrSrcNonzero src

/-- The "value written" column of R284. -/
def csrNewValue (fn : CsrFn) (old t : Word) : Word :=
  match fn with
  | .write => t
  | .set => old ||| t
  | .clear => old &&& ~~~ t

/-- Is this CSR a half of `minstret`, whose write takes the place of the count (R50)? -/
def isInstret (r : CsrReg) : Bool := r == .minstret || r == .minstreth

/-- A CSR instruction on a register CSR, after the check (R290 to R295). The source is read first, and the old value
is that before the write. -/
def csrAccess (fn : CsrFn) (src : CsrSrc) (rd : Reg) (r : CsrReg) (s : State) : Result :=
  let old := csrRead s r
  let new := csrNewValue fn old (csrSrcValue s src)
  let counted := if csrWrites fn src && isInstret r then s else countRetired s
  let written := if csrWrites fn src then csrWrite r new counted else counted
  .next { setReg rd old written with pc := s.pc + 4#32 }

/-! ## Operation CSRs (R303 to R308) -/

/-- `mscratchcsw`, `mscratchcswl` with `csrrw` (R303, R304): swap with `mscratch` if `swap`, else a move. -/
def scratchSwap (swap : Bool) (rd rs1 : Reg) (s : State) : Result :=
  if swap then
    retireWrite rd s.csr.mscratch 4#32 { s with csr := { s.csr with mscratch := readReg s rs1 } }
  else retireWrite rd (readReg s rs1) 4#32 s

/-- The condition of `mscratchcsw`: the trap came from another privilege mode (R303). -/
def privilegeChanged (s : State) : Bool := s.csr.mstatus.mpp != .M

/-- The condition of `mscratchcswl`: exactly one of the interrupted and the current level is 0 (R304). -/
def levelChanged (s : State) : Bool := (s.csr.mcause.mpil == 0#8) != (s.csr.mil == 0#8)

/-- `NextInterrupt()` (R305). -/
def nextInterrupt (s : State) : Option Candidate :=
  match eclicRequest s.cfg s.eclic with
  | some r => if r.shv || !s.csr.mcause.mpil.ult r.level then none else some r
  | none => none

/-- The claim of a source by `mnxti` or `jalmnxti` (R305, R306). -/
def claimInterrupt (r : Candidate) (s : State) : State :=
  claimSource r.id { s with csr := { s.csr with
    mcause := { s.csr.mcause with exccode := BitVec.ofNat 12 r.id }, mil := r.level } }

/-- The value `mnxti` returns for a claimed source: its handler, or its table entry's address with
`MNXTI_RETURNS_ENTRY_ADDRESS` (R305). -/
def mnxtiValue (s : State) (r : Candidate) : Option Word :=
  if s.cfg.mnxtiReturnsEntryAddress then some (vectorAddress s r.id) else vectorRead s r.id

/-- The write of `mnxti`: to `mstatus` (R305). -/
def mnxtiStatus (fn : CsrFn) (src : CsrSrc) (s : State) : State :=
  if csrWrites fn src then
    csrWrite .mstatus (csrNewValue fn (csrRead s .mstatus) (csrSrcValue s src)) s
  else s

/-- `mnxti` with `csrrs`, `csrrc` and their immediate forms (R305). -/
def mnxtiOp (fn : CsrFn) (src : CsrSrc) (rd : Reg) (s : State) : Result :=
  match nextInterrupt s with
  | none => retireWrite rd 0#32 4#32 (mnxtiStatus fn src s)
  | some r =>
    match mnxtiValue s r with
    | none => .next (accessFault (vectorAddress s r.id) s)
    | some h =>
      retireWrite rd h 4#32
        (if csrWrites fn src then claimInterrupt r (mnxtiStatus fn src s) else s)

/-- `mstatus.MIE <- 1`. -/
def setMie (s : State) : State :=
  { s with csr := { s.csr with mstatus := { s.csr.mstatus with mie := true } } }

/-- `jalmnxti` with `csrrw` (R306). -/
def jalmnxtiOp (rd : Reg) (s : State) : Result :=
  match nextInterrupt s with
  | none => retire 4#32 s
  | some r =>
    match vectorRead s r.id with
    | none => .next (accessFault (vectorAddress s r.id) s)
    | some t => retireTo (clearBit0 t) (setReg rd s.pc (setMie (claimInterrupt r s)))

/-- The address of a `push*` operation: `x[2] + 4 * zext_5(uimm)` (R308). -/
def pushAddress (s : State) (uimm : BitVec 5) : Word := readReg s 2#5 + 4#32 * immCsr uimm

/-- `rd` of a `push*` operation receives a free value, if it is not x0 (R308, U42). -/
def pushResult (rd : Reg) (s : State) : State :=
  if rd = 0#5 then s else setReg rd (freeWord s) (drawn s)

/-- `pushmsubm`, `pushmcause`, `pushmepc` with `csrrwi` (R308): store the CSR value `v`. -/
def pushOp (v : Word) (rd : Reg) (uimm : BitVec 5) (s : State) : Result :=
  if misaligned (pushAddress s uimm) 4 then .next (storeMisaligned (pushAddress s uimm) s)
  else
    match memWrite (pushAddress s uimm) 4 v s with
    | .ok s' => retire 4#32 (pushResult rd s')
    | .error r => .refused r

/-- A CSR instruction on an operation CSR, after the check. A form the spec does not describe is refused (U61). -/
def csrOperation (fn : CsrFn) (src : CsrSrc) (rd : Reg) (o : CsrOp) (s : State) : Result :=
  match o with
  | .mscratchcsw =>
    match fn, src with
    | .write, .reg rs1 => scratchSwap (privilegeChanged s) rd rs1 s
    | _, _ => .refused .csrAccessForm
  | .mscratchcswl =>
    match fn, src with
    | .write, .reg rs1 => scratchSwap (levelChanged s) rd rs1 s
    | _, _ => .refused .csrAccessForm
  | .mnxti =>
    match fn with
    | .write => .refused .csrAccessForm
    | _ => mnxtiOp fn src rd s
  | .jalmnxti =>
    match fn, src with
    | .write, .reg _ => jalmnxtiOp rd s
    | _, _ => .refused .csrAccessForm
  | .pushmsubm =>
    match fn, src with
    | .write, .imm u => pushOp (csrRead s .msubm) rd u s
    | _, _ => .refused .csrAccessForm
  | .pushmcause =>
    match fn, src with
    | .write, .imm u => pushOp (csrRead s .mcause) rd u s
    | _, _ => .refused .csrAccessForm
  | .pushmepc =>
    match fn, src with
    | .write, .imm u => pushOp (csrRead s .mepc) rd u s
    | _, _ => .refused .csrAccessForm

/-- A CSR instruction (R284 to R308): the check of R289 first; `w` is the instruction word, for `mtval`. -/
def csrInstr (fn : CsrFn) (src : CsrSrc) (rd : Reg) (a : BitVec 12) (w : Word) (s : State) : Result :=
  match csrOfAddr a with
  | none => .next (illegalInstruction w s)
  | some n =>
    if csrAllowed s n (csrWrites fn src) then
      match n with
      | .reg r => csrAccess fn src rd r s
      | .op o => csrOperation fn src rd o s
    else .next (illegalInstruction w s)

end Sys2Proof.Machine
end

