-- ==== Sys2Proof/Machine/System.lean ====
section
/-! DEFINITION. System instructions (spec/43_system_csr.md R280 to R311). -/

namespace Sys2Proof.Machine

/-- R281: always takes exception 8 or 11. -/
def execEcall (s : State) : Result := .next (environmentCall s)

/-- R282: always takes exception 3. -/
def execEbreak (s : State) : Result := .next (breakpoint s)

/-- R300: Illegal Instruction in User Mode; in Machine Mode the return from a trap, which completes and counts. -/
def execMret (s : State) : Result :=
  match s.priv with
  | .U => .next (illegalInstruction (encode .mret).value s)
  | .M => .next (countRetired (returnFromTrap s))

/-- R310, R505: completes, then sleeps, unless a bus error is pending (R506) or a wake-up condition already holds
(R507). -/
def execWfi (s : State) : Result :=
  if s.busErr.pending || wakeCondition s then retire 4#32 s else retire 4#32 { s with sleeping := true }

/-- R290. -/
def execCsrrw (rd : Reg) (csr : BitVec 12) (rs1 : Reg) (s : State) : Result :=
  csrInstr .write (.reg rs1) rd csr (encode (.csrrw rd csr rs1)).value s

/-- R291. -/
def execCsrrs (rd : Reg) (csr : BitVec 12) (rs1 : Reg) (s : State) : Result :=
  csrInstr .set (.reg rs1) rd csr (encode (.csrrs rd csr rs1)).value s

/-- R292. -/
def execCsrrc (rd : Reg) (csr : BitVec 12) (rs1 : Reg) (s : State) : Result :=
  csrInstr .clear (.reg rs1) rd csr (encode (.csrrc rd csr rs1)).value s

/-- R293. -/
def execCsrrwi (rd : Reg) (csr : BitVec 12) (uimm : BitVec 5) (s : State) : Result :=
  csrInstr .write (.imm uimm) rd csr (encode (.csrrwi rd csr uimm)).value s

/-- R294. -/
def execCsrrsi (rd : Reg) (csr : BitVec 12) (uimm : BitVec 5) (s : State) : Result :=
  csrInstr .set (.imm uimm) rd csr (encode (.csrrsi rd csr uimm)).value s

/-- R295. -/
def execCsrrci (rd : Reg) (csr : BitVec 12) (uimm : BitVec 5) (s : State) : Result :=
  csrInstr .clear (.imm uimm) rd csr (encode (.csrrci rd csr uimm)).value s

end Sys2Proof.Machine
end

