-- ==== Sys2Proof/Machine/Hart.lean ====
section
/-! DEFINITION. The step of the hart (spec/60_exceptions.md R400): sampling of the inputs (R440, R482, R490, R500),
instruction fetch (spec/20_memory.md R128, R143), and the choice between sleep, NMI, interrupt and instruction. -/

namespace Sys2Proof.Machine

/-! ## Sampling the inputs -/

/-- The environment's record for this step becomes `now`; after the last one it is quiet (log 8). -/
def takeInputs (s : State) : State :=
  match s.future with
  | [] => { s with now := EnvInput.quiet, txEvt := false }
  | e :: es => { s with now := e, future := es, txEvt := false }

/-- A free value of at least `c`: `c` and a free amount, reduced to those that keep the sum below 2^64 (R49, log 11). -/
def laterCount (c d : BitVec 64) : BitVec 64 := c + BitVec.ofNat 64 (d.toNat % (2 ^ 64 - c.toNat))

/-- While `mcountinhibit.CY` is 0, `mcycle` becomes a free value that is not smaller (R49, log 11). -/
def advanceCycles (s : State) : State :=
  if s.csr.inhibitCy then s
  else { s with
    csr := { s.csr with mcycle := laterCount s.csr.mcycle (Config.freeCycles s.draws) }, draws := s.draws + 1 }

/-- One byte written by another bus master: to RAM only; it clears a reservation of its word (R141, R146, log 20). -/
def busWrite (s : State) (w : Word × Byte) : State :=
  match placeOf s.cfg w.1 with
  | .ram => breakReservation w.1 1 (storeByte w.1 w.2 s)
  | _ => s

/-- The NMI edge: a rise of `nmi` since the previous sample is latched (R440). -/
def sampleNmi (s : State) : State :=
  { s with nmiPending := s.nmiPending || (s.now.nmi && !s.nmiPrev), nmiPrev := s.now.nmi }

/-- `line[i]` (R480). With `BUS_ERROR_AS_EXCEPTION` line 17 stays low (DEDUCED, log 16). -/
def irqLine (s : State) (i : Nat) : Bool :=
  if i = 3 then s.timer.msip
  else if i = 7 then timerLine s.timer
  else if i = 17 then s.busErr.pending && !s.cfg.busErrorAsException
  else s.now.extIrq.contains i

/-- `SampleSource(i)` for every existing source (R482). -/
def sampleLines (s : State) : State :=
  { s with eclic := { s.eclic with sources := sampleFrom s.cfg (irqLine s) 0 s.eclic.sources } }

/-- `SampleInputs()` (R500): NMI edge, timer ticks, then the interrupt lines. -/
def sampleInputs (s : State) : State :=
  let s1 := advanceCycles (takeInputs s)
  let s2 := sampleNmi (s1.now.busWrites.foldl busWrite s1)
  sampleLines { s2 with timer := timerTick s2.now.ticks s2.timer }

/-! ## Fetch -/

/-- The byte a fetch sees at `a`: if `old` and the byte was stored since the last `fence.i`, its contents before
(R143). -/
def fetchByte (s : State) (old : Bool) (a : Word) : Byte :=
  if old then (s.stale.read a.toNat).getD (byteAt s a) else byteAt s a

/-- May the hart fetch a parcel at `a` (R121, R128)? `err`: a device there answers with an error. -/
def fetchable (s : State) (err : Bool) (a : Word) : Bool :=
  match placeOf s.cfg a with
  | .ram => true
  | .rom => true
  | .device f => f && !err
  | .timer => false
  | .eclic => false
  | .nothing => false

/-- The parcel a fetch gets at `a`: the bytes of memory, or the answer `d` of a device (R121, R123, log 23). -/
def parcelAt (s : State) (old : Bool) (d : Half) (a : Word) : Half :=
  match placeOf s.cfg a with
  | .device _ => d
  | _ => fetchByte s old (a + 1#32) ++ fetchByte s old a

/-- The parcel at `a`, or the address whose fetch failed (R128). -/
def fetchParcel (s : State) (err old : Bool) (d : Half) (a : Word) : Except Word Half :=
  if fetchable s err a then .ok (parcelAt s old d a) else .error a

/-- `Fetch(pc)` (R128): the second parcel only if the first announces 32 bits; each is checked by itself. -/
def fetch (s : State) : Except Word Code :=
  match fetchParcel s s.now.fetchError s.now.fetchOld (s.now.fetchData.extractLsb' 0 16) s.pc with
  | .error a => .error a
  | .ok lo =>
    if isWide lo then
      match fetchParcel s s.now.fetchErrorHi s.now.fetchOldHi (s.now.fetchData.extractLsb' 16 16) (s.pc + 2#32) with
      | .error a => .error a
      | .ok hi => .ok (.word (hi ++ lo))
    else .ok (.half lo)

/-! ## The step -/

/-- Fetch, decode and execute the instruction at the pc (R177, R400). -/
def fetchExecute (s : State) : Result :=
  match fetch s with
  | .error a => .next (accessFault a s)
  | .ok code =>
    match decodeCode code with
    | none => .next (illegalInstruction code.value s)
    | some i => exec i s

/-- An NMI is pending and not masked (R441). -/
def nmiTakeable (s : State) : Bool := s.nmiPending && s.csr.msubm.typ != 3#2

/-- Interrupts are globally enabled: `mstatus.MIE`, or User Mode with `MIE_IGNORED_IN_UMODE` (R470). -/
def interruptsEnabled (s : State) : Bool :=
  s.csr.mstatus.mie || (s.cfg.mieIgnoredInUMode && s.priv == .U)

/-- The request the hart takes at this step boundary, if any (R470). -/
def takeableInterrupt (s : State) : Option Candidate :=
  match eclicRequest s.cfg s.eclic with
  | some r => if interruptsEnabled s && s.csr.mil.ult r.level then some r else none
  | none => none

/-- `mtvec.MODE` is 000011, the ECLIC interrupt mode (R471). -/
def eclicMode (s : State) : Bool := s.csr.mtvec.extractLsb' 0 6 == 3#6

/-- The rest of the step when the hart is awake (R400). -/
def stepAwake (s : State) : Result :=
  if nmiTakeable s then .next (nmiEntry s)
  else if s.cfg.busErrorAsException && s.busErr.pending then .next (busErrorException s)
  else
    match takeableInterrupt s with
    | some r => if eclicMode s then .next (interruptEntry r s) else .fault .defaultInterruptMode
    | none => fetchExecute s

/-- `HartStep()` (R400). No state ends a run: it is endless (R14, D31; DESIGN CHOICE, log 33). -/
def hartStep (s : State) : Result :=
  if (sampleInputs s).sleeping && !wakeCondition (sampleInputs s) then .next (sampleInputs s)
  else stepAwake { sampleInputs s with sleeping := false }

/-! ## Outputs (R511) -/

/-- The output `core_wfi_mode`. -/
def coreWfiMode (s : State) : Bool := s.sleeping

/-- The output `core_sleep_value`. -/
def coreSleepValue (s : State) : Bool := s.sleeping && s.csr.sleepvalue

/-! ## Placing an instruction -/

/-- Bytes placed in memory from address `a` on, with no window of old contents. -/
def placeBytes (a : Word) : List Byte → State → State
  | [], s => s
  | b :: bs, s =>
    placeBytes (a + 1#32) bs
      { s with mem := s.mem.write a.toNat b, stale := s.stale.filter (fun c => c.1 != a.toNat) }

end Sys2Proof.Machine
end

