-- ==== Sys2Proof/Machine/Step.lean ====
section
/-! DEFINITION. One step of the machine, and the placing of an instruction where the next step fetches it. -/

namespace Sys2Proof.Machine

/-- One step of the hart with its TIMER, its ECLIC and the environment's inputs (spec/60_exceptions.md R400). -/
def step (s : State) : Host.Outcome State Fault Refusal := hartStep s

/-- `s` with an opcode-table word stored at the pc, as if the environment had loaded it (log 21). -/
def State.withFetchWord (s : State) (nbits w : Nat) : State := placeBytes s.pc (tableBytes nbits w) s

end Sys2Proof.Machine
end

