-- ==== Sys2Proof/Safety.lean ====
section
/-! DEFINITION. The terms the claims are stated in: what an instruction changes and what it leaves alone, what each kind
of trap entry does, and the invariant every step keeps. They are written from the rules' own assignments, field by
field, not from the model's operations. -/

namespace Sys2Proof.Machine

/-! ## Frames -/

/-- The instruction runs to a next state of which `P` holds. -/
def RunsTo (i : Instr) (s : State) (P : State → Prop) : Prop := ∃ t, exec i s = .next t ∧ P t

/-- Register `rd` receives `v`, unless it is x0, and every other register keeps its value (R10, R21). -/
structure RegWrite (s t : State) (rd : Reg) (v : Word) : Prop where
  dest : readReg t rd = if rd = 0#5 then 0#32 else v
  others : ∀ r, r ≠ rd → readReg t r = readReg s r

/-- Every general register keeps its value. -/
def RegsKept (s t : State) : Prop := ∀ r, readReg t r = readReg s r

/-- Of the CSRs only `minstret` changes: it counts one, unless `mcountinhibit.IR` is 1 (R50). -/
structure OnlyCounted (s t : State) : Prop where
  count : t.csr.minstret = if s.csr.inhibitIr then s.csr.minstret else s.csr.minstret + 1#64
  others : { t.csr with minstret := s.csr.minstret } = s.csr

/-- The parameters, the TIMER, the ECLIC, the latched events and the inputs keep their values. -/
structure UnitsKept (s t : State) : Prop where
  cfg : t.cfg = s.cfg
  timer : t.timer = s.timer
  eclic : t.eclic = s.eclic
  nmiPending : t.nmiPending = s.nmiPending
  nmiPrev : t.nmiPrev = s.nmiPrev
  sleeping : t.sleeping = s.sleeping
  busErr : t.busErr = s.busErr
  txEvt : t.txEvt = s.txEvt
  now : t.now = s.now
  future : t.future = s.future

/-- Every byte of memory keeps its value, and so does the window of R143. -/
structure MemoryKept (s t : State) : Prop where
  bytes : ∀ a, byteAt t a = byteAt s a
  stale : t.stale = s.stale

/-- The instruction writes `v` to `rd`, goes on at `next`, counts, and changes nothing else. -/
structure Computes (s t : State) (rd : Reg) (v next : Word) : Prop where
  regs : RegWrite s t rd v
  pc : t.pc = next
  priv : t.priv = s.priv
  csrs : OnlyCounted s t
  units : UnitsKept s t
  memory : MemoryKept s t
  reservation : t.reservation = s.reservation

/-- The byte of memory a fetch sees at `a`: its contents before the stores since the last `fence.i` if `old` says so and
there was one, else its contents (R143, U44, log 13). -/
def fetchSees (s : State) (old : Bool) (a : Word) : Byte :=
  match old, s.stale.read a.toNat with
  | true, some b => b
  | true, none => byteAt s a
  | false, _ => byteAt s a

/-- Byte `k` of the `n` bytes at `a`. -/
def byteAddr (a : Word) (k : Nat) : Word := a + BitVec.ofNat 32 k

/-- The `n` bytes at `a` receive `v`, little-endian, and every other byte keeps its value (R123, R127); the contents a
fetch may see instead are those from before (R143). -/
structure BytesWritten (s t : State) (a : Word) (n : Nat) (v : Word) : Prop where
  stored : ∀ k, k < n → byteAt t (byteAddr a k) = byteOf v k
  outside : ∀ b, (∀ k, k < n → b ≠ byteAddr a k) → byteAt t b = byteAt s b
  old : s.stale.wf = true → ∀ b, fetchSees t true b = fetchSees s true b

/-- The reservation after a store to the `n` bytes at `a`: gone if its word overlaps them (R127). -/
def reservationAfter (s : State) (a : Word) (n : Nat) : Option Word :=
  match s.reservation with
  | some r => if a.toNat < r.toNat + 4 ∧ r.toNat < a.toNat + n then none else some r
  | none => none

/-- A store to RAM: the bytes, the pc, the count and the reservation, and nothing else (R260, R266 to R268). -/
structure Stores (s t : State) (a : Word) (n : Nat) (v next : Word) : Prop where
  memory : BytesWritten s t a n v
  regs : RegsKept s t
  pc : t.pc = next
  priv : t.priv = s.priv
  csrs : OnlyCounted s t
  units : UnitsKept s t
  reservation : t.reservation = reservationAfter s a n

/-! ## Trap entries -/

/-- The registers of the two-level state stack after a push (R412). -/
structure Pushed (s t : State) : Prop where
  epc2 : t.csr.msaveepc2 = s.csr.msaveepc1
  epc1 : t.csr.msaveepc1 = s.csr.mepc
  cause2 : t.csr.msavecause2 = s.csr.msavecause1
  cause1 : t.csr.msavecause1 = csrRead s .mcause
  status2 : t.csr.save2 = s.csr.save1
  status1 : t.csr.save1 =
    { mpie := s.csr.mstatus.mpie, mpp := s.csr.mstatus.mpp, ptyp := s.csr.msubm.ptyp }

/-- The state stack is as before. -/
structure StackKept (s t : State) : Prop where
  epc2 : t.csr.msaveepc2 = s.csr.msaveepc2
  epc1 : t.csr.msaveepc1 = s.csr.msaveepc1
  cause2 : t.csr.msavecause2 = s.csr.msavecause2
  cause1 : t.csr.msavecause1 = s.csr.msavecause1
  status2 : t.csr.save2 = s.csr.save2
  status1 : t.csr.save1 = s.csr.save1

/-- The CSRs that no trap entry writes. -/
structure TrapCsrsKept (s t : State) : Prop where
  mtvec : t.csr.mtvec = s.csr.mtvec
  mtvt : t.csr.mtvt = s.csr.mtvt
  mscratch : t.csr.mscratch = s.csr.mscratch
  mcycle : t.csr.mcycle = s.csr.mcycle
  minstret : t.csr.minstret = s.csr.minstret
  mcounteren : t.csr.mcounteren = s.csr.mcounteren
  inhibitCy : t.csr.inhibitCy = s.csr.inhibitCy
  inhibitIr : t.csr.inhibitIr = s.csr.inhibitIr
  nmiCauseFff : t.csr.nmiCauseFff = s.csr.nmiCauseFff
  commonEntry : t.csr.commonEntry = s.csr.commonEntry
  mtvt2en : t.csr.mtvt2en = s.csr.mtvt2en
  sleepvalue : t.csr.sleepvalue = s.csr.sleepvalue
  wfe : t.csr.wfe = s.csr.wfe

/-- What every trap entry does: `mepc` receives the pc with bit 0 clear; MPIE, MPP and PTYP receive MIE, the privilege
mode and TYP; MIE is 0, TYP is `typ`, the mode is Machine, the reservation is gone; XS, the general registers and memory
are as before (R405, R442, R472). -/
structure TrapEntered (s t : State) (typ : BitVec 2) : Prop where
  mepc : t.csr.mepc = s.pc.extractLsb' 1 31 ++ 0#1
  mstatus : t.csr.mstatus = { mie := false, mpie := s.csr.mstatus.mie, mpp := s.priv, xs := s.csr.mstatus.xs }
  msubm : t.csr.msubm = { ptyp := s.csr.msubm.typ, typ := typ }
  priv : t.priv = .M
  reservation : t.reservation = none
  regs : RegsKept s t
  memory : MemoryKept s t
  csrs : TrapCsrsKept s t

/-- A CSR's value with its low two bits replaced by 0: `{v[31:2], 0b00}` (R413). -/
def align4 (v : Word) : Word := v.extractLsb' 2 30 ++ 0#2

/-- Exception `code` is taken with `mtval` = `tval` (R405 to R414). -/
structure TakesException (s t : State) (code : BitVec 12) (tval : Word) : Prop where
  entered : TrapEntered s t 2#2
  pushed : Pushed s t
  cause : t.csr.mcause = { s.csr.mcause with interrupt := false, exccode := code }
  mtval : t.csr.mtval = tval
  mil : t.csr.mil = s.csr.mil
  pc : t.pc = align4 s.csr.mtvec
  units : UnitsKept s t

/-- The NMI is taken (R442 to R446). -/
structure TakesNmi (s t : State) : Prop where
  entered : TrapEntered s t 3#2
  pushed : Pushed s t
  cause : t.csr.mcause =
    { s.csr.mcause with interrupt := false, exccode := if s.csr.nmiCauseFff then 0xFFF#12 else 0x001#12 }
  mtval : t.csr.mtval = s.csr.mtval
  mil : t.csr.mil = s.csr.mil
  pc : t.pc = if s.csr.nmiCauseFff then align4 s.csr.mtvec else s.cfg.resetVector
  latch : t.nmiPending = false
  units : UnitsKept { s with nmiPending := false } t

/-- Interrupt `r` is taken and the next instruction is at `entry` (R472 to R476); the state stack and `mtval` are as
before. -/
structure TakesInterrupt (s t : State) (r : Candidate) (entry : Word) : Prop where
  entered : TrapEntered s t 1#2
  stack : StackKept s t
  interrupt : t.csr.mcause.interrupt = true
  exccode : t.csr.mcause.exccode = BitVec.ofNat 12 r.id
  mpil : t.csr.mcause.mpil = s.csr.mil
  mil : t.csr.mil = r.level
  mtval : t.csr.mtval = s.csr.mtval
  pc : t.pc = entry

/-! ## CSRs that show the same storage -/

/-- Reading `q` may show what a write to `r` stores: the same register, the `mstatus`/`mcause` mirror (R298), a counter
and its read-only copy (R51, R53), and `mnvec` (R56). -/
def showsStorage (r q : CsrReg) : Bool :=
  r == q
    || (r == .mstatus && q == .mcause) || (r == .mcause && q == .mstatus)
    || (r == .mcycle && q == .cycle) || (r == .mcycleh && q == .cycleh)
    || (r == .minstret && q == .instret) || (r == .minstreth && q == .instreth)
    || ((r == .mtvec || r == .mmiscCtl) && q == .mnvec)

/-- The read value of `q` can change because an instruction completes: the halves of `minstret` and their copies. -/
def countsRetired (q : CsrReg) : Bool :=
  q == .minstret || q == .minstreth || q == .instret || q == .instreth

/-- The bits of a read-write CSR that keep what is written to them (R296); the others read a constant. `mstatus`,
`mcause` and `msavestatus` hold a privilege mode and are stated apart. -/
def writableBits (c : Config) : CsrReg → Option Word
  | .mie => some 0#32
  | .mip => some 0#32
  | .txevt => some 0#32
  | .mtvec => some 0xFFFFFFFF#32
  | .mcounteren => some 0x00000007#32
  | .mtvt => some (0xFFFFFFFF#32 <<< mtvtAlign c)
  | .mcountinhibit => some 0x00000005#32
  | .mscratch => some 0xFFFFFFFF#32
  | .mepc => some 0xFFFFFFFE#32
  | .mtval => some 0xFFFFFFFF#32
  | .mcycle => some 0xFFFFFFFF#32
  | .mcycleh => some 0xFFFFFFFF#32
  | .minstret => some 0xFFFFFFFF#32
  | .minstreth => some 0xFFFFFFFF#32
  | .msubm => some 0x000003C0#32
  | .mmiscCtl => some 0x00000200#32
  | .msaveepc1 => some 0xFFFFFFFE#32
  | .msaveepc2 => some 0xFFFFFFFE#32
  | .msavecause1 => some 0xF8FF0FFF#32
  | .msavecause2 => some 0xF8FF0FFF#32
  | .mtvt2 => some 0xFFFFFFFD#32
  | .wfe => some 0x00000001#32
  | .sleepvalue => some 0x00000001#32
  | .mstatus | .mcause | .msavestatus => none
  | .mvendorid | .marchid | .mimpid | .mhartid | .misa | .mintstatus | .mnvec => none
  | .cycle | .time | .instret | .cycleh | .timeh | .instreth => none

/-! ## The invariant -/

/-- Without User Mode the mode is Machine and every saved mode is Machine (R26, R35). -/
structure MachineOnly (s : State) : Prop where
  priv : s.priv = .M
  mpp : s.csr.mstatus.mpp = .M
  mpp1 : s.csr.save1.mpp = .M
  mpp2 : s.csr.save2.mpp = .M

/-- The source registers: as many as `NUM_INTERRUPT`, those that do not exist at 0, unimplemented `clicintctl` bits
at 0 (R75, R82). -/
structure SourcesOk (c : Config) (e : Eclic) : Prop where
  count : e.sources.length = c.numInterrupt
  absent : ∀ i, sourceExists c i = false → sourceAt e i = Source.reset
  ctl : ∀ i, (sourceAt e i).ctl &&& onesLow (8 - c.clicIntCtlBits) = 0#8

/-- What holds at reset and after every step: the bits the spec holds constant, the legal modes, the alignment of the pc
and of the address CSRs, and the canonical form of memory. -/
structure Inv (s : State) : Prop where
  cfg : s.cfg.wf = true
  pc : s.pc.getLsbD 0 = false
  mepc : s.csr.mepc.getLsbD 0 = false
  msaveepc1 : s.csr.msaveepc1.getLsbD 0 = false
  msaveepc2 : s.csr.msaveepc2.getLsbD 0 = false
  mtvt : clearLow (mtvtAlign s.cfg) s.csr.mtvt = s.csr.mtvt
  msavecause1 : causeMask s.csr.msavecause1 = s.csr.msavecause1
  msavecause2 : causeMask s.csr.msavecause2 = s.csr.msavecause2
  machineOnly : s.cfg.hasUMode = false → MachineOnly s
  sources : SourcesOk s.cfg s.eclic
  reservation : ∀ r, s.reservation = some r → r.extractLsb' 0 2 = 0#2
  mem : s.mem.wf = true
  stale : s.stale.wf = true

/-! ## Instructions of one shape -/

/-- RAM or ROM answers at `a` (R121). -/
def inMemory (s : State) (a : Word) : Prop := placeOf s.cfg a = .ram ∨ placeOf s.cfg a = .rom

/-- An instruction-side access at `a` is answered: by RAM, by ROM, or by a device that lets the hart execute from it and
does not answer with the error `err` (R121, R128, R478). -/
def Answered (s : State) (err : Bool) (a : Word) : Prop :=
  inMemory s a ∨ (placeOf s.cfg a = .device true ∧ err = false)

/-- The parcel at the pc can be fetched (R128). -/
def CanFetchLow (s : State) : Prop := Answered s s.now.fetchError s.pc

/-- The parcel after it can be fetched (R128). -/
def CanFetchHigh (s : State) : Prop := Answered s s.now.fetchErrorHi (s.pc + 2#32)

/-- The vector table entry at `a` can be read (R478). -/
def CanReadVector (s : State) (a : Word) : Prop := Answered s s.now.vectorError a

/-- The halfword at `a`, little-endian (R123). -/
def halfAt (s : State) (a : Word) : Half := byteAt s (a + 1#32) ++ byteAt s a

/-- The word at `a`, little-endian (R123). -/
def wordAt (s : State) (a : Word) : Word :=
  byteAt s (a + 3#32) ++ byteAt s (a + 2#32) ++ byteAt s (a + 1#32) ++ byteAt s a

/-- The parcel a fetch gets at `a`: the halfword it sees in memory, or what a device answers (R121, R123, R128, log 23). -/
def fetchedHalf (s : State) (old : Bool) (d : Half) (a : Word) : Half :=
  if placeOf s.cfg a = .device true then d else fetchSees s old (a + 1#32) ++ fetchSees s old a

/-- The parcel at the pc. -/
def fetchedLow (s : State) : Half := fetchedHalf s s.now.fetchOld (s.now.fetchData.extractLsb' 0 16) s.pc

/-- The parcel after it. -/
def fetchedHigh (s : State) : Half :=
  fetchedHalf s s.now.fetchOldHi (s.now.fetchData.extractLsb' 16 16) (s.pc + 2#32)

/-- The word a vector read gets at `a`: the word in memory, or what a device answers (R478, log 23). -/
def vectorWord (s : State) (a : Word) : Word :=
  if placeOf s.cfg a = .device true then s.now.vectorData else wordAt s a

/-- What a load does with the value read: 8, 16 or 32 bits, sign- or zero-extended (R261 to R265). -/
inductive Extend where
  | signed8
  | signed16
  | unsigned8
  | unsigned16
  | word
deriving DecidableEq, Repr

/-- Access size in bytes. -/
def Extend.size : Extend → Nat
  | .signed8 => 1
  | .signed16 => 2
  | .unsigned8 => 1
  | .unsigned16 => 2
  | .word => 4

/-- The register value made of the low bits of `v`. -/
def Extend.apply (e : Extend) (v : Word) : Word :=
  match e with
  | .signed8 => (v.extractLsb' 0 8).signExtend 32
  | .signed16 => (v.extractLsb' 0 16).signExtend 32
  | .unsigned8 => (v.extractLsb' 0 8).zeroExtend 32
  | .unsigned16 => (v.extractLsb' 0 16).zeroExtend 32
  | .word => v

/-- The seven loads: destination, base register, offset, extension, length in bytes (R261 to R265, R364, R383). -/
inductive Load : Instr → Reg → Reg → Word → Extend → Word → Prop
  | lb (rd rs1 imm) : Load (.lb rd rs1 imm) rd rs1 (imm.signExtend 32) .signed8 4#32
  | lh (rd rs1 imm) : Load (.lh rd rs1 imm) rd rs1 (imm.signExtend 32) .signed16 4#32
  | lw (rd rs1 imm) : Load (.lw rd rs1 imm) rd rs1 (imm.signExtend 32) .word 4#32
  | lbu (rd rs1 imm) : Load (.lbu rd rs1 imm) rd rs1 (imm.signExtend 32) .unsigned8 4#32
  | lhu (rd rs1 imm) : Load (.lhu rd rs1 imm) rd rs1 (imm.signExtend 32) .unsigned16 4#32
  | cLw (rd rs1 u) : Load (.cLw rd rs1 u) (1#2 ++ rd) (1#2 ++ rs1) ((u ++ 0#2).zeroExtend 32) .word 2#32
  | cLwsp (rd u) : Load (.cLwsp rd u) rd 2#5 ((u ++ 0#2).zeroExtend 32) .word 2#32

/-- The five stores: source, base register, offset, size, length in bytes (R266 to R268, R365, R389). -/
inductive Store : Instr → Reg → Reg → Word → Nat → Word → Prop
  | sb (rs2 rs1 imm) : Store (.sb rs2 rs1 imm) rs2 rs1 (imm.signExtend 32) 1 4#32
  | sh (rs2 rs1 imm) : Store (.sh rs2 rs1 imm) rs2 rs1 (imm.signExtend 32) 2 4#32
  | sw (rs2 rs1 imm) : Store (.sw rs2 rs1 imm) rs2 rs1 (imm.signExtend 32) 4 4#32
  | cSw (rs2 rs1 u) : Store (.cSw rs2 rs1 u) (1#2 ++ rs2) (1#2 ++ rs1) ((u ++ 0#2).zeroExtend 32) 4 2#32
  | cSwsp (rs2 u) : Store (.cSwsp rs2 u) rs2 2#5 ((u ++ 0#2).zeroExtend 32) 4 2#32

/-- The nine AMOs: destination, source, address register, and the value stored from the old value and the source
(R343 to R351). -/
inductive Amo : Instr → Reg → Reg → Reg → (Word → Word → Word) → Prop
  | swap (rd rs2 rs1 aq rl) : Amo (.amoswapW rd rs2 rs1 aq rl) rd rs2 rs1 (fun _ v => v)
  | add (rd rs2 rs1 aq rl) : Amo (.amoaddW rd rs2 rs1 aq rl) rd rs2 rs1 (fun t v => t + v)
  | xor (rd rs2 rs1 aq rl) : Amo (.amoxorW rd rs2 rs1 aq rl) rd rs2 rs1 (fun t v => t ^^^ v)
  | and (rd rs2 rs1 aq rl) : Amo (.amoandW rd rs2 rs1 aq rl) rd rs2 rs1 (fun t v => t &&& v)
  | or (rd rs2 rs1 aq rl) : Amo (.amoorW rd rs2 rs1 aq rl) rd rs2 rs1 (fun t v => t ||| v)
  | min (rd rs2 rs1 aq rl) : Amo (.amominW rd rs2 rs1 aq rl) rd rs2 rs1 (fun t v => if t.toInt ≤ v.toInt then t else v)
  | max (rd rs2 rs1 aq rl) : Amo (.amomaxW rd rs2 rs1 aq rl) rd rs2 rs1 (fun t v => if t.toInt ≤ v.toInt then v else t)
  | minu (rd rs2 rs1 aq rl) :
      Amo (.amominuW rd rs2 rs1 aq rl) rd rs2 rs1 (fun t v => if t.toNat ≤ v.toNat then t else v)
  | maxu (rd rs2 rs1 aq rl) :
      Amo (.amomaxuW rd rs2 rs1 aq rl) rd rs2 rs1 (fun t v => if t.toNat ≤ v.toNat then v else t)

/-- The six CSR instructions (R284). -/
inductive CsrForm where
  | rw
  | rs
  | rc
  | rwi
  | rsi
  | rci
deriving DecidableEq, Repr

/-- The instruction of a form, with destination, CSR address, and source register number or immediate. -/
def CsrForm.instr (f : CsrForm) (rd : Reg) (a : BitVec 12) (u : BitVec 5) : Instr :=
  match f with
  | .rw => .csrrw rd a u
  | .rs => .csrrs rd a u
  | .rc => .csrrc rd a u
  | .rwi => .csrrwi rd a u
  | .rsi => .csrrsi rd a u
  | .rci => .csrrci rd a u

/-- Source column of R284: the register's value, or the immediate zero-extended. -/
def CsrForm.operand (f : CsrForm) (s : State) (u : BitVec 5) : Word :=
  match f with
  | .rw | .rs | .rc => readReg s u
  | .rwi | .rsi | .rci => u.zeroExtend 32

/-- "Writes the CSR" column of R284: always for `csrrw`, `csrrwi`; else if the field is not zero. -/
def CsrForm.writes (f : CsrForm) (u : BitVec 5) : Bool :=
  match f with
  | .rw | .rwi => true
  | .rs | .rc | .rsi | .rci => u != 0#5

/-- "Value written" column of R284. -/
def CsrForm.newValue (f : CsrForm) (old t : Word) : Word :=
  match f with
  | .rw | .rwi => t
  | .rs | .rsi => old ||| t
  | .rc | .rci => old &&& ~~~ t

/-- The forms R303 to R308 describe for each operation CSR. -/
def CsrForm.described (f : CsrForm) (o : CsrOp) : Bool :=
  match o with
  | .mscratchcsw | .mscratchcswl | .jalmnxti => f == .rw
  | .mnxti => f == .rs || f == .rc || f == .rsi || f == .rci
  | .pushmsubm | .pushmcause | .pushmepc => f == .rwi

/-- The mode that a write of `p` to an MPP field leaves there (R296): Machine without User Mode; else 0 and 3 as written,
and M or U, unsaid which, for 1 and 2. -/
structure LegalMpp (c : Config) (p : BitVec 2) (m : Priv) : Prop where
  noUser : c.hasUMode = false → m = .M
  user : c.hasUMode = true → p = 0#2 → m = .U
  machine : c.hasUMode = true → p = 3#2 → m = .M

/-- `mstatus` after a write of `v` (R35, R296). -/
structure MstatusWritten (c : Config) (m : Mstatus) (v : Word) : Prop where
  mie : m.mie = v.getLsbD 3
  mpie : m.mpie = v.getLsbD 7
  mpp : LegalMpp c (v.extractLsb' 11 2) m.mpp
  xs : m.xs = v.extractLsb' 15 2

/-- The instruction can store to memory: stores, `sc.w`, the AMOs and `csrrwi` (for the `push*` operations). -/
def MayStore (i : Instr) : Prop :=
  (∃ src base off n len, Store i src base off n len) ∨ (∃ rd rs2 rs1 f, Amo i rd rs2 rs1 f)
    ∨ (∃ rd rs2 rs1 aq rl, i = .scW rd rs2 rs1 aq rl) ∨ (∃ rd a u, i = .csrrwi rd a u)

/-- The last value a list of byte writes gives address `a`, if it writes there. -/
def lastWritten (ws : List (Word × Byte)) (a : Word) : Option Byte :=
  (ws.reverse.find? (fun w => w.1 == a)).map (·.2)

/-- `t` is `s` after other bus masters wrote the bytes `ws`: a byte of RAM named there holds the last value written, every
other byte keeps its value, and the contents a fetch may see instead are those from before; the reservation is gone if
its word holds such a byte of RAM, and else as before (R141, R143, R146, log 20). -/
structure BusWritten (s t : State) (ws : List (Word × Byte)) : Prop where
  written : ∀ a b, placeOf s.cfg a = .ram → lastWritten ws a = some b → byteAt t a = b
  kept : ∀ a, placeOf s.cfg a ≠ .ram ∨ lastWritten ws a = none → byteAt t a = byteAt s a
  old : ∀ a, fetchSees t true a = fetchSees s true a
  broken : ∀ r w, s.reservation = some r → w ∈ ws → placeOf s.cfg w.1 = .ram → r.toNat ≤ w.1.toNat →
    w.1.toNat < r.toNat + 4 → t.reservation = none
  held : (∀ r w, s.reservation = some r → w ∈ ws → placeOf s.cfg w.1 = .ram →
    ¬ (r.toNat ≤ w.1.toNat ∧ w.1.toNat < r.toNat + 4)) → t.reservation = s.reservation

/-! ## The step boundary -/

/-- The state at the step boundary, after the inputs are sampled, with the hart awake (R400). -/
def atBoundary (s : State) : State := { sampleInputs s with sleeping := false }

/-- `WakeCondition()` of R508. -/
def WakeCondition (s : State) : Prop :=
  s.nmiPending = true
    ∨ ((s.csr.mstatus.mie = true ∨ s.csr.wfe = false) ∧ ∃ r, eclicRequest s.cfg s.eclic = some r)
    ∨ (s.csr.mstatus.mie = false ∧ s.csr.wfe = true ∧ s.now.rxEvt = true)

/-- The hart is awake at this step: it was, or a wake-up condition holds after sampling (R400). -/
def Awake (s : State) : Prop := s.sleeping = false ∨ WakeCondition (sampleInputs s)

/-- An NMI is taken at this boundary (R441). -/
def NmiDue (b : State) : Prop := b.nmiPending = true ∧ b.csr.msubm.typ ≠ 3#2

/-- A bus error is taken as an exception at this boundary (R418). -/
def BusErrorDue (b : State) : Prop := b.cfg.busErrorAsException = true ∧ b.busErr.pending = true

/-- Request `r` may be taken at this boundary, but for what comes before it (R470). -/
def RequestDue (b : State) (r : Candidate) : Prop :=
  eclicRequest b.cfg b.eclic = some r ∧ b.csr.mil.toNat < r.level.toNat
    ∧ (b.csr.mstatus.mie = true ∨ (b.cfg.mieIgnoredInUMode = true ∧ b.priv = .U))

/-- Interrupt `r` is what the step at boundary `b` takes (R400, R470). -/
structure InterruptDue (b : State) (r : Candidate) : Prop where
  request : RequestDue b r
  noNmi : ¬ NmiDue b
  noBusError : ¬ BusErrorDue b

/-- Nothing is taken at boundary `b`: the step executes an instruction (R400). -/
structure NothingDue (b : State) : Prop where
  noNmi : ¬ NmiDue b
  noBusError : ¬ BusErrorDue b
  noRequest : ∀ r, ¬ RequestDue b r

/-- Fetches see the current bytes: the inputs say so, or nothing was stored since the last `fence.i` (R143). -/
def FetchesCurrent (s : State) : Prop :=
  (s.now.fetchOld = false ∧ s.now.fetchOldHi = false) ∨ s.stale = []

/-- Source `q` takes part in arbitration as number `i` (R486). -/
def Contends (c : Config) (e : Eclic) (i : Nat) (q : Source) : Prop :=
  i < e.sources.length ∧ sourceAt e i = q ∧ sourceExists c i = true ∧ q.ie = true ∧ q.ip = true

/-- The ECLIC after the hart jumped to the handler of source `i`: an edge-triggered source is no longer pending (R483). -/
def IpCleared (e e' : Eclic) (i : Nat) : Prop :=
  e' = (if (sourceAt e i).trig.getLsbD 0 then
      { e with sources := e.sources.set i { sourceAt e i with ip := false } } else e)

/-- The TIMER after a word store of `v` at offset `k`: the half or the bit there receives it; other offsets ignore it
(R70 to R74, R135). -/
def timerStored (u : Timer) (k : Nat) (v : Word) : Timer where
  mtime := if k = 0x000 then u.mtime.extractLsb' 32 32 ++ v
    else if k = 0x004 then v ++ u.mtime.extractLsb' 0 32 else u.mtime
  mtimecmp := if k = 0x008 then u.mtimecmp.extractLsb' 32 32 ++ v
    else if k = 0x00C then v ++ u.mtimecmp.extractLsb' 0 32 else u.mtimecmp
  timestop := if k = 0xFF8 then v.getLsbD 0 else u.timestop
  msip := if k = 0xFFC then v.getLsbD 0 else u.msip

/-- Byte register `k` of the ECLIC reads `v` (R75 to R82, R136). -/
structure EclicByte (c : Config) (e : Eclic) (k : Nat) (v : Byte) : Prop where
  cliccfg : k = 0x0000 → v = 0#3 ++ e.nlbits ++ 1#1
  clicinfo : 4 ≤ k → k ≤ 7 → v = (0#7 ++ BitVec.ofNat 4 c.clicIntCtlBits ++ c.eclicVersion
    ++ BitVec.ofNat 13 c.numInterrupt).extractLsb' (8 * (k - 4)) 8
  mth : k = 0x000B → v = e.mth
  reserved : k < 0x1000 → k ≠ 0 → ¬ (4 ≤ k ∧ k ≤ 7) → k ≠ 0x000B → v = 0#8
  ip : ∀ j, sourceExists c j = true → k = 0x1000 + 4 * j → v = if (sourceAt e j).ip then 1#8 else 0#8
  ie : ∀ j, sourceExists c j = true → k = 0x1001 + 4 * j → v = if (sourceAt e j).ie then 1#8 else 0#8
  attr : ∀ j, sourceExists c j = true → k = 0x1002 + 4 * j →
    v = 0b11000#5 ++ (sourceAt e j).trig ++ BitVec.ofBool (sourceAt e j).shv
  ctl : ∀ j, sourceExists c j = true → k = 0x1003 + 4 * j → ∀ m, v.getLsbD m =
    if m < 8 - c.clicIntCtlBits ∧ m < 8 then true else (sourceAt e j).ctl.getLsbD m
  absent : ∀ j, sourceExists c j = false → 0x1000 + 4 * j ≤ k → k < 0x1004 + 4 * j → v = 0#8

/-- What a store of the `n` low bytes of `v` at offset `k` puts in byte `r`, if it covers that byte (R136). -/
def storedByte (k n : Nat) (v : Word) (r : Nat) : Option Byte :=
  if k ≤ r ∧ r < k + n then some (byteOf v (r - k)) else none

/-- The ECLIC after a store of the `n` low bytes of `v` at offset `k`: each writable register whose byte is covered
receives it; IP only if the source is edge-triggered, by the trig the store leaves; everything else is as before (R75,
R136, R481). -/
structure EclicStored (c : Config) (e e' : Eclic) (k n : Nat) (v : Word) : Prop where
  nlbits : e'.nlbits = (storedByte k n v 0x0000).elim e.nlbits (fun b => b.extractLsb' 1 4)
  mth : e'.mth = (storedByte k n v 0x000B).elim e.mth id
  count : e'.sources.length = e.sources.length
  ip : ∀ j, sourceExists c j = true → (sourceAt e' j).ip = if (sourceAt e' j).trig.getLsbD 0 then
    (storedByte k n v (0x1000 + 4 * j)).elim (sourceAt e j).ip (fun b => b.getLsbD 0) else (sourceAt e j).ip
  ie : ∀ j, sourceExists c j = true → (sourceAt e' j).ie =
    (storedByte k n v (0x1001 + 4 * j)).elim (sourceAt e j).ie (fun b => b.getLsbD 0)
  trig : ∀ j, sourceExists c j = true → (sourceAt e' j).trig =
    (storedByte k n v (0x1002 + 4 * j)).elim (sourceAt e j).trig (fun b => b.extractLsb' 1 2)
  shv : ∀ j, sourceExists c j = true → (sourceAt e' j).shv =
    (storedByte k n v (0x1002 + 4 * j)).elim (sourceAt e j).shv (fun b => b.getLsbD 0)
  ctl : ∀ j m, sourceExists c j = true → (sourceAt e' j).ctl.getLsbD m =
    (storedByte k n v (0x1003 + 4 * j)).elim ((sourceAt e j).ctl.getLsbD m)
      (fun b => if m < 8 - c.clicIntCtlBits then false else b.getLsbD m)
  prev : ∀ j, (sourceAt e' j).prev = (sourceAt e j).prev
  absent : ∀ j, sourceExists c j = false → sourceAt e' j = sourceAt e j

/-- The step at boundary `b`, in User Mode, entered Machine Mode by an NMI, an exception, or an interrupt, whose vector read
may itself have failed (R402, R418, R479). -/
inductive EntersMachineMode (b t : State) : Prop
  | nmi (h : NmiDue b) (h' : TakesNmi b t)
  | busError (h : BusErrorDue b) (code : BitVec 12) (tval : Word)
      (h' : TakesException { b with busErr := t.busErr } t code tval)
  | exception (h : NothingDue b) (code : BitVec 12) (tval : Word) (h' : TakesException b t code tval)
  | interrupt (r : Candidate) (h : InterruptDue b r) (entry : Word) (h' : TakesInterrupt b t r entry)
  | vectorFault (r : Candidate) (h : InterruptDue b r) (u : State) (entry a : Word) (h' : TakesInterrupt b u r entry)
      (h'' : TakesException u t 1#12 a)

/-- The recorded bus error after source `i` was claimed (R418). -/
def busErrClaimed (b : BusErr) (i : Nat) : BusErr := if i = 17 then { b with pending := false } else b

end Sys2Proof.Machine
end

