-- ==== Sys2Proof/Certificates/Slice0/Obligations.lean ====
section
/-! DEFINITION. The statements for the provers. Each says what instructions or the machine do, in the terms of
Sys2Proof/Safety.lean, for every state that meets hypotheses on the state and the operands alone. -/

open Sys2Proof Sys2Proof.Machine

/-! ## Reset and invariants -/

/-- The values the spec gives for reset (R83, R521), under every configuration. Registers the spec leaves unspecified are
not mentioned. -/
def Obligations.ResetValues : Prop :=
  ∀ c : Config, (State.resetOf c).cfg = c ∧ (State.resetOf c).pc = c.resetVector ∧ (State.resetOf c).priv = .M ∧
    csrRead (State.resetOf c) .mstatus = (if c.hasUMode then 0x00000000#32 else 0x00001800#32) ∧
    csrRead (State.resetOf c) .mintstatus = 0#32 ∧ csrRead (State.resetOf c) .mcounteren = 0#32 ∧
    csrRead (State.resetOf c) .mcountinhibit = 0#32 ∧ (State.resetOf c).csr.msubm.typ = 0#2 ∧
    (State.resetOf c).csr.mtvt2en = false ∧ csrRead (State.resetOf c) .sleepvalue = 0#32 ∧
    csrRead (State.resetOf c) .wfe = 0#32 ∧
    (State.resetOf c).csr.nmiCauseFff = c.mmiscCtlReset ∧
    (State.resetOf c).timer =
      { mtime := 0#64, mtimecmp := 0xFFFFFFFFFFFFFFFF#64, timestop := false, msip := false } ∧
    (State.resetOf c).eclic.nlbits = 0#4 ∧
    (∀ i, (sourceAt (State.resetOf c).eclic i).ip = false ∧ (sourceAt (State.resetOf c).eclic i).ie = false ∧
      (sourceAt (State.resetOf c).eclic i).trig = 0#2 ∧ (sourceAt (State.resetOf c).eclic i).shv = false) ∧
    (State.resetOf c).reservation = none ∧ (State.resetOf c).nmiPending = false ∧
    (State.resetOf c).sleeping = false ∧ (State.resetOf c).busErr.pending = false ∧
    readReg (State.resetOf c) 0#5 = 0#32

/-- Reset establishes the invariant under every configuration that meets R7, and `State.reset` meets it. -/
def Obligations.ResetMeetsInvariant : Prop :=
  (∀ c : Config, c.wf = true → Inv (State.resetOf c)) ∧ Inv State.reset

/-- Every step keeps the invariant (constant bits, legal modes, alignment, the canonical form of memory), and no step
changes a parameter (R7, log 1). -/
def Obligations.StepKeepsInvariant : Prop :=
  ∀ s t : State, step s = .next t → (Inv s → Inv t) ∧ t.cfg = s.cfg

/-- In User Mode an instruction that completes changes no CSR but `minstret`, keeps User Mode and does not sleep unless
it is `wfi`; otherwise it takes an exception, or it stops by name. A step leaves User Mode only by an exception, an
interrupt or an NMI (R289, R402). -/
def Obligations.UserModeIsConfined : Prop :=
  (∀ (i : Instr) (s t : State), s.priv = .U → exec i s = .next t →
    (t.priv = .U ∧ OnlyCounted s t ∧ (i ≠ .wfi → t.sleeping = s.sleeping)) ∨
    (∃ code tval, TakesException s t code tval)) ∧
  (∀ s t : State, s.priv = .U → step s = .next t → t.priv = .M → EntersMachineMode (atBoundary s) t)

/-- Only `mret` leaves Machine Mode for User Mode (R402). -/
def Obligations.OnlyMretEntersUserMode : Prop :=
  ∀ (i : Instr) (s t : State), s.priv = .M → exec i s = .next t → t.priv = .U → i = .mret

/-- Only the storing instructions change a byte of memory; only `fence.i` ends the window of R143 without a store. -/
def Obligations.OnlyStoresChangeMemory : Prop :=
  ∀ (i : Instr) (s t : State), exec i s = .next t → ¬ MayStore i →
    (∀ a, byteAt t a = byteAt s a) ∧ ((∀ imm rs1 rd, i ≠ .fenceI imm rs1 rd) → t.stale = s.stale)

/-! ## Encoding -/

/-- Decoding the bytes of an encoded well-formed instruction, whatever follows them, gives it back. -/
def Obligations.DecodeEncode : Prop :=
  ∀ (i : Instr) (rest : List Byte), i.wellFormed = true → decode ((encode i).bytes ++ rest) = .ok (i, rest)

/-- What the decoder accepts is the encoding of a well-formed instruction: no two words decode alike, and no word decodes
with a bit dropped. -/
def Obligations.EncodeDecode : Prop :=
  ∀ (bs rest : List Byte) (i : Instr), decode bs = .ok (i, rest) →
    i.wellFormed = true ∧ bs = (encode i).bytes ++ rest

/-- Words the spec writes out, and the instructions they stand for (one of each 32-bit format and some parcels). -/
def Obligations.WordsDecode : Prop :=
  decode32 0x123452B7#32 = some (.lui 5#5 0x12345#20) ∧
  decode32 0x00000073#32 = some .ecall ∧ decode32 0x00100073#32 = some .ebreak ∧
  decode32 0x30200073#32 = some .mret ∧ decode32 0x10500073#32 = some .wfi ∧
  decode32 0x0000100F#32 = some (.fenceI 0#12 0#5 0#5) ∧
  decode16 0x0001#16 = some (.cNop 0#6) ∧ decode16 0x9002#16 = some .cEbreak ∧ decode16 0x0000#16 = none

/-! ## The step -/

/-- Sampling changes the inputs, the counters of time, the NMI latch, the sources' lines and what other bus masters write,
and nothing else; `mcycle` never falls (R49, R141, R146, R400, R440, R490; log 8, log 11, log 20). -/
def Obligations.SamplingFrame : Prop :=
  ∀ s : State, (sampleInputs s).pc = s.pc ∧ (sampleInputs s).priv = s.priv ∧ RegsKept s (sampleInputs s) ∧
    { (sampleInputs s).csr with mcycle := s.csr.mcycle } = s.csr ∧
    (s.csr.inhibitCy = true → (sampleInputs s).csr.mcycle = s.csr.mcycle) ∧
    s.csr.mcycle.toNat ≤ (sampleInputs s).csr.mcycle.toNat ∧
    (sampleInputs s).cfg = s.cfg ∧ (sampleInputs s).sleeping = s.sleeping ∧ (sampleInputs s).busErr = s.busErr ∧
    (sampleInputs s).txEvt = false ∧ (sampleInputs s).now = s.future.headD EnvInput.quiet ∧
    (sampleInputs s).future = s.future.tail ∧
    (sampleInputs s).nmiPending = (s.nmiPending || ((sampleInputs s).now.nmi && !s.nmiPrev)) ∧
    (sampleInputs s).nmiPrev = (sampleInputs s).now.nmi ∧
    (sampleInputs s).timer =
      (if s.timer.timestop then s.timer
        else { s.timer with mtime := s.timer.mtime + BitVec.ofNat 64 (sampleInputs s).now.ticks }) ∧
    (sampleInputs s).eclic.nlbits = s.eclic.nlbits ∧ (sampleInputs s).eclic.mth = s.eclic.mth ∧
    ((sampleInputs s).now.busWrites = [] →
      MemoryKept s (sampleInputs s) ∧ (sampleInputs s).reservation = s.reservation) ∧
    (s.mem.wf = true → s.stale.wf = true → BusWritten s (sampleInputs s) (sampleInputs s).now.busWrites)

/-- Every existing source is sampled: a level source follows its line, an edge source keeps IP and sets it on its edge,
and the line is remembered (R480, R482). Sources that do not exist keep their registers. -/
def Obligations.SourcesAreSampled : Prop :=
  ∀ (s : State) (i : Nat), s.eclic.sources.length = s.cfg.numInterrupt →
    (sourceExists s.cfg i = false → sourceAt (sampleInputs s).eclic i = sourceAt s.eclic i) ∧
    (sourceExists s.cfg i = true → ∀ l : Bool,
      l = (if i = 3 then (sampleInputs s).timer.msip
        else if i = 7 then decide ((sampleInputs s).timer.mtimecmp.toNat ≤ (sampleInputs s).timer.mtime.toNat)
        else if i = 17 then s.busErr.pending && !s.cfg.busErrorAsException
        else decide (i ∈ (sampleInputs s).now.extIrq)) →
      sourceAt (sampleInputs s).eclic i = { sourceAt s.eclic i with
        prev := l,
        ip := if (sourceAt s.eclic i).trig.getLsbD 0 = false then l
          else if (sourceAt s.eclic i).trig.getLsbD 1 = false ∧ (sourceAt s.eclic i).prev = false ∧ l = true then true
          else if (sourceAt s.eclic i).trig.getLsbD 1 = true ∧ (sourceAt s.eclic i).prev = true ∧ l = false then true
          else (sourceAt s.eclic i).ip })

/-- A step that can fetch at its pc and whose parcels there decode to `i` runs `i` on the state at the boundary: the step
adds the sampling of the inputs and wakes the hart, and nothing after `exec`. A parcel is two bytes of memory, low byte
first: the current ones, or with `fetchOld` those from before the stores since the last `fence.i` (R143, log 13); on a
device the hart may execute from it is what the device answers (log 23). -/
def Obligations.StepRunsDecoded : Prop :=
  ∀ (s b : State) (i : Instr) (rest : List Byte), b = atBoundary s → Awake s → NothingDue b → CanFetchLow b →
    (isWide (fetchedLow b) = true → CanFetchHigh b) →
    decode [(fetchedLow b).extractLsb' 0 8, (fetchedLow b).extractLsb' 8 8, (fetchedHigh b).extractLsb' 0 8,
      (fetchedHigh b).extractLsb' 8 8] = .ok (i, rest) →
    step s = exec i b ∧
    (inMemory b b.pc →
      fetchedLow b = fetchSees b b.now.fetchOld (b.pc + 1#32) ++ fetchSees b b.now.fetchOld b.pc) ∧
    (inMemory b (b.pc + 2#32) → fetchedHigh b =
      fetchSees b b.now.fetchOldHi (b.pc + 2#32 + 1#32) ++ fetchSees b b.now.fetchOldHi (b.pc + 2#32)) ∧
    (FetchesCurrent b → ∀ a, fetchSees b b.now.fetchOld a = byteAt b a ∧ fetchSees b b.now.fetchOldHi a = byteAt b a)

/-- A step whose fetched parcel or word, of old or of current bytes, is no instruction takes Illegal Instruction with the
encoding in `mtval` (R143, R168, R175, R408). -/
def Obligations.StepRefusesIllegalEncoding : Prop :=
  ∀ (s b : State), b = atBoundary s → Awake s → NothingDue b → CanFetchLow b →
    (isWide (fetchedLow b) = false → decode16 (fetchedLow b) = none →
      ∃ t, step s = .next t ∧ TakesException b t 2#12 ((fetchedLow b).zeroExtend 32)) ∧
    (isWide (fetchedLow b) = true → CanFetchHigh b → decode32 (fetchedHigh b ++ fetchedLow b) = none →
      ∃ t, step s = .next t ∧ TakesException b t 2#12 (fetchedHigh b ++ fetchedLow b))

/-- A fetch that cannot be made takes Instruction access fault, with the failing parcel's address in `mtval`: the pc, or
pc + 2 when only the second parcel fails (R128, R130, R408). -/
def Obligations.FetchFaults : Prop :=
  ∀ (s b : State), b = atBoundary s → Awake s → NothingDue b →
    (¬ CanFetchLow b → ∃ t, step s = .next t ∧ TakesException b t 1#12 b.pc) ∧
    (CanFetchLow b → isWide (fetchedLow b) = true → ¬ CanFetchHigh b →
      ∃ t, step s = .next t ∧ TakesException b t 1#12 (b.pc + 2#32))

/-- Asleep and not woken, a step only samples the inputs (R400, R508). -/
def Obligations.SleepLastsUntilWoken : Prop :=
  ∀ s : State, s.sleeping = true → ¬ WakeCondition (sampleInputs s) → step s = .next (sampleInputs s)

/-- An NMI that is due is taken, before everything else (R441 to R446). -/
def Obligations.NmiIsTaken : Prop :=
  ∀ s : State, Awake s → NmiDue (atBoundary s) → ∃ t, step s = .next t ∧ TakesNmi (atBoundary s) t

/-- With `BUS_ERROR_AS_EXCEPTION` a recorded bus error is taken as exception 5 or 7 at the next boundary without an NMI,
and is then no longer recorded (R418). -/
def Obligations.BusErrorIsTaken : Prop :=
  ∀ (s b : State), b = atBoundary s → Awake s → ¬ NmiDue b → BusErrorDue b →
    ∃ t, step s = .next t ∧ t.busErr.pending = false ∧
      TakesException { b with busErr := t.busErr } t (if b.busErr.isStore then 7#12 else 5#12) b.busErr.addr

/-- A non-vectored interrupt that is due goes to the common entry; MINHV, the sources and the bus error are as before
(R472 to R477). -/
def Obligations.CommonInterruptEntry : Prop :=
  ∀ (s b : State) (r : Candidate), b = atBoundary s → Awake s → InterruptDue b r → r.shv = false →
    b.csr.mtvec.extractLsb' 0 6 = 3#6 →
    ∃ t, step s = .next t ∧
      TakesInterrupt b t r (if b.csr.mtvt2en then b.csr.commonEntry ++ 0#2 else align4 b.csr.mtvec) ∧
      t.csr.mcause.minhv = b.csr.mcause.minhv ∧ UnitsKept b t

/-- A vectored interrupt whose table entry can be read goes to the address it holds, bit 0 cleared; an edge-triggered
source is no longer pending, and source 17 no longer holds a bus error (R472, R478, R483; on a device the address is what
the device answers, log 23). -/
def Obligations.VectoredInterruptEntry : Prop :=
  ∀ (s b : State) (r : Candidate) (a : Word), b = atBoundary s → Awake s → InterruptDue b r → r.shv = true →
    b.csr.mtvec.extractLsb' 0 6 = 3#6 → a = b.csr.mtvt + 4#32 * BitVec.ofNat 32 r.id → CanReadVector b a →
    ∃ t, step s = .next t ∧ TakesInterrupt b t r ((vectorWord b a).extractLsb' 1 31 ++ 0#1) ∧
      t.csr.mcause.minhv = false ∧ IpCleared b.eclic t.eclic r.id ∧ t.busErr = busErrClaimed b.busErr r.id ∧
      UnitsKept { b with eclic := t.eclic, busErr := t.busErr } t

/-- A vectored interrupt whose table entry cannot be read is entered as far as the read, with MINHV 1, and then takes
Instruction access fault at the entry's address (R479; log 23 for a device). -/
def Obligations.FailedVectorRead : Prop :=
  ∀ (s b : State) (r : Candidate) (a : Word), b = atBoundary s → Awake s → InterruptDue b r → r.shv = true →
    b.csr.mtvec.extractLsb' 0 6 = 3#6 → a = b.csr.mtvt + 4#32 * BitVec.ofNat 32 r.id → ¬ CanReadVector b a →
    ∃ u t, TakesInterrupt b u r u.csr.mepc ∧ u.csr.mcause.minhv = true ∧ UnitsKept b u ∧
      step s = .next t ∧ TakesException u t 1#12 a

/-- An interrupt that is due while `mtvec.MODE` is not 3 stops the machine by name (R471, U60). -/
def Obligations.DefaultInterruptModeStops : Prop :=
  ∀ (s : State) (r : Candidate), Awake s → InterruptDue (atBoundary s) r →
    (atBoundary s).csr.mtvec.extractLsb' 0 6 ≠ 3#6 → step s = .fault .defaultInterruptMode

/-! ## Arbitration -/

/-- The request is the greatest contender by level, priority, id, if its level is above `mth`; there is none exactly when
no contender's level is above `mth` (R486). -/
def Obligations.RequestIsGreatestContender : Prop :=
  ∀ (c : Config) (e : Eclic),
    (∀ r, eclicRequest c e = some r →
      ∃ q, Contends c e r.id q ∧ r.level = sourceLevel c e q ∧ r.priority = sourcePriority c e q ∧ r.shv = q.shv ∧
        e.mth.toNat < r.level.toNat ∧
        ∀ j p, Contends c e j p → j ≠ r.id →
          (sourceLevel c e p).toNat < r.level.toNat ∨
          ((sourceLevel c e p).toNat = r.level.toNat ∧
            ((sourcePriority c e p).toNat < r.priority.toNat ∨
              ((sourcePriority c e p).toNat = r.priority.toNat ∧ j < r.id)))) ∧
    (eclicRequest c e = none ↔ ∀ j p, Contends c e j p → (sourceLevel c e p).toNat ≤ e.mth.toNat)

/-- Level and Priority of a source, bit by bit: Level is the top `nl` bits of `clicintctl[i]` as read, then ones; Priority
is the bits below them, left-aligned, then ones (R484, R485). -/
def Obligations.LevelAndPriorityBits : Prop :=
  ∀ (c : Config) (e : Eclic) (q : Source) (nl k : Nat), nl = min e.nlbits.toNat 8 → k < 8 →
    (sourceLevel c e q).getLsbD k = (if 8 - nl ≤ k then (ctlRead c q).getLsbD k else true) ∧
    (sourcePriority c e q).getLsbD k = (if nl ≤ k then (ctlRead c q).getLsbD (k - nl) else true)

/-! ## Integer instructions -/

/-- The eleven instructions with an immediate or shift amount complete with the results of R201 to R211. -/
def Obligations.IntegerImmediateResults : Prop :=
  ∀ (s : State) (rd rs1 : Reg) (imm : BitVec 12) (imm20 : BitVec 20) (sh : BitVec 5) (v : Word), v = imm.signExtend 32 →
    RunsTo (.lui rd imm20) s (fun t => Computes s t rd (imm20 ++ 0#12) (s.pc + 4#32)) ∧
    RunsTo (.auipc rd imm20) s (fun t => Computes s t rd (s.pc + (imm20 ++ 0#12)) (s.pc + 4#32)) ∧
    RunsTo (.addi rd rs1 imm) s (fun t => Computes s t rd (readReg s rs1 + v) (s.pc + 4#32)) ∧
    RunsTo (.slti rd rs1 imm) s (fun t => Computes s t rd
      (if (readReg s rs1).toInt < imm.toInt then 1#32 else 0#32) (s.pc + 4#32)) ∧
    RunsTo (.sltiu rd rs1 imm) s (fun t => Computes s t rd
      (if (readReg s rs1).toNat < v.toNat then 1#32 else 0#32) (s.pc + 4#32)) ∧
    RunsTo (.xori rd rs1 imm) s (fun t => Computes s t rd (readReg s rs1 ^^^ v) (s.pc + 4#32)) ∧
    RunsTo (.ori rd rs1 imm) s (fun t => Computes s t rd (readReg s rs1 ||| v) (s.pc + 4#32)) ∧
    RunsTo (.andi rd rs1 imm) s (fun t => Computes s t rd (readReg s rs1 &&& v) (s.pc + 4#32)) ∧
    RunsTo (.slli rd rs1 sh) s (fun t => Computes s t rd (readReg s rs1 <<< sh.toNat) (s.pc + 4#32)) ∧
    RunsTo (.srli rd rs1 sh) s (fun t => Computes s t rd (readReg s rs1 >>> sh.toNat) (s.pc + 4#32)) ∧
    RunsTo (.srai rd rs1 sh) s (fun t => Computes s t rd ((readReg s rs1).sshiftRight sh.toNat) (s.pc + 4#32))

/-- The ten register-register instructions complete with the results of R212 to R221; shifts use the low five bits of
`x[rs2]`. -/
def Obligations.IntegerRegisterResults : Prop :=
  ∀ (s : State) (rd rs1 rs2 : Reg) (a b : Word) (n : Nat), a = readReg s rs1 → b = readReg s rs2 → n = b.toNat % 32 →
    RunsTo (.add rd rs1 rs2) s (fun t => Computes s t rd (a + b) (s.pc + 4#32)) ∧
    RunsTo (.sub rd rs1 rs2) s (fun t => Computes s t rd (a - b) (s.pc + 4#32)) ∧
    RunsTo (.sll rd rs1 rs2) s (fun t => Computes s t rd (a <<< n) (s.pc + 4#32)) ∧
    RunsTo (.slt rd rs1 rs2) s (fun t => Computes s t rd (if a.toInt < b.toInt then 1#32 else 0#32) (s.pc + 4#32)) ∧
    RunsTo (.sltu rd rs1 rs2) s (fun t => Computes s t rd (if a.toNat < b.toNat then 1#32 else 0#32) (s.pc + 4#32)) ∧
    RunsTo (.xor rd rs1 rs2) s (fun t => Computes s t rd (a ^^^ b) (s.pc + 4#32)) ∧
    RunsTo (.srl rd rs1 rs2) s (fun t => Computes s t rd (a >>> n) (s.pc + 4#32)) ∧
    RunsTo (.sra rd rs1 rs2) s (fun t => Computes s t rd (a.sshiftRight n) (s.pc + 4#32)) ∧
    RunsTo (.or rd rs1 rs2) s (fun t => Computes s t rd (a ||| b) (s.pc + 4#32)) ∧
    RunsTo (.and rd rs1 rs2) s (fun t => Computes s t rd (a &&& b) (s.pc + 4#32))

/-- The four multiplications complete with the halves of the exact 64-bit product (R321 to R324). -/
def Obligations.MultiplyResults : Prop :=
  ∀ (s : State) (rd rs1 rs2 : Reg) (a b : Word), a = readReg s rs1 → b = readReg s rs2 →
    RunsTo (.mul rd rs1 rs2) s (fun t => Computes s t rd
      ((a.signExtend 64 * b.signExtend 64).extractLsb' 0 32) (s.pc + 4#32)) ∧
    RunsTo (.mulh rd rs1 rs2) s (fun t => Computes s t rd
      ((a.signExtend 64 * b.signExtend 64).extractLsb' 32 32) (s.pc + 4#32)) ∧
    RunsTo (.mulhsu rd rs1 rs2) s (fun t => Computes s t rd
      ((a.signExtend 64 * b.zeroExtend 64).extractLsb' 32 32) (s.pc + 4#32)) ∧
    RunsTo (.mulhu rd rs1 rs2) s (fun t => Computes s t rd
      ((a.zeroExtend 64 * b.zeroExtend 64).extractLsb' 32 32) (s.pc + 4#32))

/-- The four divisions complete, none traps, and quotient and remainder are those of R325: rounded toward zero, the
remainder with the dividend's sign, all ones and the dividend for a zero divisor, -2^31 and 0 on overflow. -/
def Obligations.DivisionResults : Prop :=
  ∀ (s : State) (rd rs1 rs2 : Reg) (a b : Word), a = readReg s rs1 → b = readReg s rs2 →
    ∃ q r qu ru : Word,
      RunsTo (.div rd rs1 rs2) s (fun t => Computes s t rd q (s.pc + 4#32)) ∧
      RunsTo (.rem rd rs1 rs2) s (fun t => Computes s t rd r (s.pc + 4#32)) ∧
      RunsTo (.divu rd rs1 rs2) s (fun t => Computes s t rd qu (s.pc + 4#32)) ∧
      RunsTo (.remu rd rs1 rs2) s (fun t => Computes s t rd ru (s.pc + 4#32)) ∧
      a = b * q + r ∧ a = b * qu + ru ∧
      (b = 0#32 → q = 0xFFFFFFFF#32 ∧ r = a ∧ qu = 0xFFFFFFFF#32 ∧ ru = a) ∧
      (a = 0x80000000#32 → b = 0xFFFFFFFF#32 → q = 0x80000000#32 ∧ r = 0#32) ∧
      (b ≠ 0#32 → ¬ (a = 0x80000000#32 ∧ b = 0xFFFFFFFF#32) →
        q.toInt = a.toInt.tdiv b.toInt ∧ r.toInt = a.toInt.tmod b.toInt) ∧
      (b ≠ 0#32 → qu.toNat = a.toNat / b.toNat ∧ ru.toNat = a.toNat % b.toNat)

/-! ## Control transfer -/

/-- The six branches complete: to `pc + offset` if the comparison holds, else to `pc + 4`; no register is written
(R240, R243 to R248). -/
def Obligations.BranchResults : Prop :=
  ∀ (s : State) (rs1 rs2 : Reg) (off : BitVec 12) (a b target next : Word), a = readReg s rs1 → b = readReg s rs2 →
    target = s.pc + (off ++ 0#1).signExtend 32 → next = s.pc + 4#32 →
    RunsTo (.beq rs1 rs2 off) s (fun t => Computes s t 0#5 0#32 (if a = b then target else next)) ∧
    RunsTo (.bne rs1 rs2 off) s (fun t => Computes s t 0#5 0#32 (if a = b then next else target)) ∧
    RunsTo (.blt rs1 rs2 off) s (fun t => Computes s t 0#5 0#32 (if a.toInt < b.toInt then target else next)) ∧
    RunsTo (.bge rs1 rs2 off) s (fun t => Computes s t 0#5 0#32 (if a.toInt < b.toInt then next else target)) ∧
    RunsTo (.bltu rs1 rs2 off) s (fun t => Computes s t 0#5 0#32 (if a.toNat < b.toNat then target else next)) ∧
    RunsTo (.bgeu rs1 rs2 off) s (fun t => Computes s t 0#5 0#32 (if a.toNat < b.toNat then next else target))

/-- The two jumps complete: the link is `pc + 4`, and the target of `jalr` is computed from the old `x[rs1]` and has bit 0
clear (R241, R242). -/
def Obligations.JumpResults : Prop :=
  ∀ (s : State) (rd rs1 : Reg) (off : BitVec 20) (imm : BitVec 12),
    RunsTo (.jal rd off) s (fun t => Computes s t rd (s.pc + 4#32) (s.pc + (off ++ 0#1).signExtend 32)) ∧
    RunsTo (.jalr rd rs1 imm) s (fun t => Computes s t rd (s.pc + 4#32)
      ((readReg s rs1 + imm.signExtend 32).extractLsb' 1 31 ++ 0#1))

/-! ## Loads, stores, fences -/

/-- An aligned load from RAM or ROM completes: it reads little-endian bytes and extends them (R123, R261 to R265, R364,
R383). Byte loads are always aligned. -/
def Obligations.LoadsFromMemory : Prop :=
  ∀ (s : State) (rd rs1 : Reg) (imm : BitVec 12) (crd crs1 : CReg) (u5 : BitVec 5) (u6 : BitVec 6) (a : Word),
    inMemory s a →
    (a = readReg s rs1 + imm.signExtend 32 →
      RunsTo (.lb rd rs1 imm) s (fun t => Computes s t rd ((byteAt s a).signExtend 32) (s.pc + 4#32)) ∧
      RunsTo (.lbu rd rs1 imm) s (fun t => Computes s t rd ((byteAt s a).zeroExtend 32) (s.pc + 4#32)) ∧
      (a.toNat % 2 = 0 →
        RunsTo (.lh rd rs1 imm) s (fun t => Computes s t rd ((halfAt s a).signExtend 32) (s.pc + 4#32)) ∧
        RunsTo (.lhu rd rs1 imm) s (fun t => Computes s t rd ((halfAt s a).zeroExtend 32) (s.pc + 4#32))) ∧
      (a.toNat % 4 = 0 →
        RunsTo (.lw rd rs1 imm) s (fun t => Computes s t rd (wordAt s a) (s.pc + 4#32)))) ∧
    (a = readReg s (1#2 ++ crs1) + (u5 ++ 0#2).zeroExtend 32 → a.toNat % 4 = 0 →
      RunsTo (.cLw crd crs1 u5) s (fun t => Computes s t (1#2 ++ crd) (wordAt s a) (s.pc + 2#32))) ∧
    (a = readReg s 2#5 + (u6 ++ 0#2).zeroExtend 32 → a.toNat % 4 = 0 →
      RunsTo (.cLwsp rd u6) s (fun t => Computes s t rd (wordAt s a) (s.pc + 2#32)))

/-- An aligned store to RAM completes: the low bytes of the source, little-endian, at the address, and nothing else but
an overlapping reservation; a fetch of old bytes sees what it saw before (R127, R143, R266 to R268, R365, R389, log 13). -/
def Obligations.StoresToRam : Prop :=
  ∀ (s : State) (i : Instr) (src base : Reg) (off len a : Word) (n : Nat), Store i src base off n len →
    s.mem.wf = true → a = readReg s base + off → placeOf s.cfg a = .ram → a.toNat % n = 0 →
    RunsTo i s (fun t => Stores s t a n (readReg s src) (s.pc + len))

/-- A misaligned load or `lr.w` takes exception 4, a misaligned store, `sc.w` or AMO exception 6, with the address in
`mtval`, wherever the address lies (R125). -/
def Obligations.MisalignedAccessTraps : Prop :=
  ∀ (s : State) (i : Instr) (rd rs2 rs1 : Reg) (off len : Word) (n : Nat) (e : Extend) (f : Word → Word → Word)
    (aq rl : BitVec 1),
    (Load i rd rs1 off e len → (readReg s rs1 + off).toNat % e.size ≠ 0 →
      RunsTo i s (fun t => TakesException s t 4#12 (readReg s rs1 + off))) ∧
    (Store i rs2 rs1 off n len → (readReg s rs1 + off).toNat % n ≠ 0 →
      RunsTo i s (fun t => TakesException s t 6#12 (readReg s rs1 + off))) ∧
    ((readReg s rs1).toNat % 4 ≠ 0 →
      RunsTo (.lrW rd rs1 aq rl) s (fun t => TakesException s t 4#12 (readReg s rs1)) ∧
      RunsTo (.scW rd rs2 rs1 aq rl) s (fun t => TakesException s t 6#12 (readReg s rs1)) ∧
      (Amo i rd rs2 rs1 f → RunsTo i s (fun t => TakesException s t 6#12 (readReg s rs1))))

/-- An aligned load where nothing answers, or from another device, completes with a free value; the former always and the
latter on a bus error records it (R121, R126, R131, log 9, log 14). -/
def Obligations.LoadsOutsideMemory : Prop :=
  ∀ (s : State) (i : Instr) (rd rs1 : Reg) (off len a : Word) (e : Extend), Load i rd rs1 off e len →
    a = readReg s rs1 + off → a.toNat % e.size = 0 →
    (placeOf s.cfg a = .nothing → ∃ v, RunsTo i s (fun t =>
      Computes { s with busErr := ⟨true, false, a⟩ } t rd (e.apply v) (s.pc + len))) ∧
    (∀ x, placeOf s.cfg a = .device x → ∃ v, RunsTo i s (fun t =>
      Computes { s with busErr := if s.now.busError then ⟨true, false, a⟩ else s.busErr } t rd (e.apply v)
        (s.pc + len)))

/-- An aligned store where nothing answers changes no memory and records a bus error; one to a ROM or another device does
so if the environment answers with a bus error (R121, R127, R131, log 14, log 15). -/
def Obligations.StoresOutsideRam : Prop :=
  ∀ (s : State) (i : Instr) (src base : Reg) (off len a : Word) (n : Nat), Store i src base off n len →
    a = readReg s base + off → a.toNat % n = 0 →
    (placeOf s.cfg a = .nothing → RunsTo i s (fun t =>
      Computes { s with busErr := ⟨true, true, a⟩, reservation := reservationAfter s a n } t 0#5 0#32
        (s.pc + len))) ∧
    (placeOf s.cfg a = .rom ∨ (∃ x, placeOf s.cfg a = .device x) → RunsTo i s (fun t =>
      Computes { s with
          busErr := if s.now.busError then ⟨true, true, a⟩ else s.busErr,
          reservation := reservationAfter s a n } t 0#5 0#32 (s.pc + len)))

/-- `fence` changes nothing but the pc and the count, whatever its fields; `fence.i` also ends the window in which a fetch
may see old bytes (R142, R143, R270, R271). -/
def Obligations.FenceResults : Prop :=
  ∀ (s : State) (fm pred succ : BitVec 4) (imm : BitVec 12) (rs1 rd : Reg),
    RunsTo (.fence fm pred succ rs1 rd) s (fun t => Computes s t 0#5 0#32 (s.pc + 4#32)) ∧
    RunsTo (.fenceI imm rs1 rd) s (fun t => Computes { s with stale := [] } t 0#5 0#32 (s.pc + 4#32) ∧
      ∀ old a, fetchSees t old a = byteAt s a)

/-! ## The TIMER and the ECLIC -/

/-- Word accesses to the TIMER read and write its registers by offset; other offsets read 0 and ignore writes; a byte or
halfword access stops by name (R70 to R74, R135, U62). -/
def Obligations.TimerAccess : Prop :=
  ∀ (s : State) (i : Instr) (rd base : Reg) (off len a : Word) (n k : Nat) (e : Extend), a = readReg s base + off →
    placeOf s.cfg a = .timer → k = (a - s.cfg.timerBase).toNat →
    (Load i rd base off e len → e = .word → a.toNat % 4 = 0 → RunsTo i s (fun t => Computes s t rd
      (if k = 0x000 then s.timer.mtime.extractLsb' 0 32 else if k = 0x004 then s.timer.mtime.extractLsb' 32 32
        else if k = 0x008 then s.timer.mtimecmp.extractLsb' 0 32
        else if k = 0x00C then s.timer.mtimecmp.extractLsb' 32 32
        else if k = 0xFF8 then (if s.timer.timestop then 1#32 else 0#32)
        else if k = 0xFFC then (if s.timer.msip then 1#32 else 0#32) else 0#32) (s.pc + len))) ∧
    (Store i rd base off n len → n = 4 → a.toNat % 4 = 0 → RunsTo i s (fun t => Computes { s with
        timer := timerStored s.timer k (readReg s rd),
        reservation := reservationAfter s a n } t 0#5 0#32 (s.pc + len))) ∧
    (Load i rd base off e len → e ≠ .word → a.toNat % e.size = 0 → exec i s = .refused .timerAccessSize) ∧
    (Store i rd base off n len → n ≠ 4 → a.toNat % n = 0 → exec i s = .refused .timerAccessSize)

/-- An aligned load from the ECLIC completes: each byte read is that of its byte register, reads change nothing (R75 to R82,
R136, R137). -/
def Obligations.EclicReads : Prop :=
  ∀ (s : State) (i : Instr) (rd base : Reg) (off len a : Word) (k : Nat) (e : Extend), Load i rd base off e len →
    a = readReg s base + off → placeOf s.cfg a = .eclic → a.toNat % e.size = 0 → k = (a - s.cfg.eclicBase).toNat →
    ∃ b0 b1 b2 b3 : Byte, RunsTo i s (fun t => Computes s t rd (e.apply (b3 ++ b2 ++ b1 ++ b0)) (s.pc + len)) ∧
      EclicByte s.cfg s.eclic k b0 ∧ EclicByte s.cfg s.eclic (k + 1) b1 ∧ EclicByte s.cfg s.eclic (k + 2) b2 ∧
      EclicByte s.cfg s.eclic (k + 3) b3

/-- An aligned store to the ECLIC completes and writes the covered byte registers: `cliccfg.nlbits`, `mth`, the fields of
the sources; IP only if the source is edge-triggered, judged by the trig the store leaves; other bytes ignore it (R75,
R136, R481). -/
def Obligations.EclicWrites : Prop :=
  ∀ (s : State) (i : Instr) (src base : Reg) (off len a : Word) (n k : Nat), Store i src base off n len →
    a = readReg s base + off → placeOf s.cfg a = .eclic → a.toNat % n = 0 → k = (a - s.cfg.eclicBase).toNat →
    s.eclic.sources.length = s.cfg.numInterrupt →
    RunsTo i s (fun t => ∃ e : Eclic,
      Computes { s with eclic := e, reservation := reservationAfter s a n } t 0#5 0#32 (s.pc + len) ∧
      EclicStored s.cfg s.eclic e k n (readReg s src))

/-! ## System instructions -/

/-- `ecall` takes exception 8 from User Mode and 11 from Machine Mode; `ebreak` and `c.ebreak` take exception 3; `mtval`
is a free value (R281, R282, R386, R405 to R414). -/
def Obligations.EnvironmentCalls : Prop :=
  ∀ s : State, ∃ v : Word,
    RunsTo .ecall s (fun t => TakesException s t (if s.priv = .U then 8#12 else 11#12) v) ∧
    RunsTo .ebreak s (fun t => TakesException s t 3#12 v) ∧
    RunsTo .cEbreak s (fun t => TakesException s t 3#12 v)

/-- `mret` in Machine Mode with `mcause.INTERRUPT` 0 completes and pops the state stack (R300, R301). -/
def Obligations.MretFromException : Prop :=
  ∀ s : State, s.priv = .M → s.csr.mcause.interrupt = false → RunsTo .mret s (fun t =>
    t.pc = s.csr.mepc.extractLsb' 1 31 ++ 0#1 ∧
    t.priv = (if s.cfg.hasUMode then s.csr.mstatus.mpp else .M) ∧
    t.csr.mstatus =
      { mie := s.csr.mstatus.mpie, mpie := s.csr.save1.mpie, mpp := s.csr.save1.mpp, xs := s.csr.mstatus.xs } ∧
    t.csr.msubm = { typ := s.csr.msubm.ptyp, ptyp := s.csr.save1.ptyp } ∧
    t.csr.mepc = s.csr.msaveepc1 ∧ t.csr.msaveepc1 = s.csr.msaveepc2 ∧ t.csr.msaveepc2 = s.csr.msaveepc2 ∧
    t.csr.save1 = s.csr.save2 ∧ t.csr.save2 = s.csr.save2 ∧
    t.csr.mcause = {
      interrupt := s.csr.msavecause1.getLsbD 31, minhv := s.csr.msavecause1.getLsbD 30,
      mpil := s.csr.msavecause1.extractLsb' 16 8, exccode := s.csr.msavecause1.extractLsb' 0 12 } ∧
    t.csr.msavecause1 = s.csr.msavecause2 ∧ t.csr.msavecause2 = s.csr.msavecause2 ∧
    t.csr.mil = s.csr.mil ∧ t.csr.mtval = s.csr.mtval ∧
    t.csr.minstret = (if s.csr.inhibitIr then s.csr.minstret else s.csr.minstret + 1#64) ∧
    TrapCsrsKept { s with csr := { s.csr with minstret := t.csr.minstret } } t ∧
    t.reservation = none ∧ RegsKept s t ∧ MemoryKept s t ∧ UnitsKept s t)

/-- `mret` in Machine Mode with `mcause.INTERRUPT` 1 completes: the level and the enable come back, MPIE is 1, MPP is the
least mode, and the state stack is not touched (R300, R302). -/
def Obligations.MretFromInterrupt : Prop :=
  ∀ s : State, s.priv = .M → s.csr.mcause.interrupt = true → RunsTo .mret s (fun t =>
    t.pc = s.csr.mepc.extractLsb' 1 31 ++ 0#1 ∧
    t.priv = (if s.cfg.hasUMode then s.csr.mstatus.mpp else .M) ∧
    t.csr.mstatus = {
      mie := s.csr.mstatus.mpie, mpie := true, mpp := if s.cfg.hasUMode then .U else .M, xs := s.csr.mstatus.xs } ∧
    t.csr.msubm = { typ := s.csr.msubm.ptyp, ptyp := s.csr.msubm.ptyp } ∧
    t.csr.mil = s.csr.mcause.mpil ∧ t.csr.mcause = s.csr.mcause ∧ t.csr.mepc = s.csr.mepc ∧
    t.csr.mtval = s.csr.mtval ∧ StackKept s t ∧
    t.csr.minstret = (if s.csr.inhibitIr then s.csr.minstret else s.csr.minstret + 1#64) ∧
    TrapCsrsKept { s with csr := { s.csr with minstret := t.csr.minstret } } t ∧
    t.reservation = none ∧ RegsKept s t ∧ MemoryKept s t ∧ UnitsKept s t)

/-- `wfi` completes in both modes, and the hart then sleeps unless a bus error is pending or a wake-up condition holds
already (R310, R505 to R508). -/
def Obligations.WfiResult : Prop :=
  ∀ s : State,
    (s.busErr.pending = true ∨ WakeCondition s → RunsTo .wfi s (fun t => Computes s t 0#5 0#32 (s.pc + 4#32))) ∧
    (s.busErr.pending = false → ¬ WakeCondition s →
      RunsTo .wfi s (fun t => Computes { s with sleeping := true } t 0#5 0#32 (s.pc + 4#32)))

/-! ## CSR instructions -/

/-- Each of the six CSR instructions, on a CSR that is a register and that the check of R289 allows, completes: `rd`
receives the old value, and registers, memory and units are otherwise kept; only a write to `txevt` pulses `tx_evt`
(R284, R289 to R295). -/
def Obligations.CsrInstructionsComplete : Prop :=
  ∀ (s : State) (f : CsrForm) (rd : Reg) (a : BitVec 12) (u : BitVec 5) (r : CsrReg), csrOfAddr a = some (.reg r) →
    csrAllowed s (.reg r) (f.writes u) = true → RunsTo (f.instr rd a u) s (fun t =>
      RegWrite s t rd (csrRead s r) ∧ t.pc = s.pc + 4#32 ∧ t.priv = s.priv ∧ MemoryKept s t ∧
      t.reservation = s.reservation ∧ UnitsKept { s with txEvt := t.txEvt } t ∧
      (t.txEvt = true ↔ s.txEvt = true ∨
        (r = .txevt ∧ f.writes u = true ∧ (f.newValue (csrRead s r) (f.operand s u)).getLsbD 0 = true)) ∧
      (f.writes u = false → OnlyCounted s t))

/-- After a CSR write, reading the CSR gives the written value on its writable bits and 0 elsewhere; the source and the
old value are those from before (R284, R296; `mstatus`, `mcause`, `msavestatus` apart). -/
def Obligations.CsrWriteReadsBack : Prop :=
  ∀ (s t : State) (f : CsrForm) (rd : Reg) (a : BitVec 12) (u : BitVec 5) (r : CsrReg) (m : Word),
    csrOfAddr a = some (.reg r) → csrAllowed s (.reg r) (f.writes u) = true → f.writes u = true →
    writableBits s.cfg r = some m → exec (f.instr rd a u) s = .next t →
    csrRead t r = f.newValue (csrRead s r) (f.operand s u) &&& m

/-- After a write to `mstatus`, `mcause` or `msavestatus` their fields hold the written bits, and the saved modes are
legal (R35, R43, R59, R296, R298; for 1 and 2 which mode is a free choice, log 10). -/
def Obligations.CsrStatusWrites : Prop :=
  ∀ (s t : State) (f : CsrForm) (rd : Reg) (a : BitVec 12) (u : BitVec 5) (r : CsrReg) (v : Word),
    csrOfAddr a = some (.reg r) → csrAllowed s (.reg r) (f.writes u) = true → f.writes u = true →
    v = f.newValue (csrRead s r) (f.operand s u) → exec (f.instr rd a u) s = .next t →
    (r = .mstatus → MstatusWritten s.cfg t.csr.mstatus v ∧ t.csr.mcause = s.csr.mcause) ∧
    (r = .mcause → t.csr.mcause = {
        interrupt := v.getLsbD 31, minhv := v.getLsbD 30,
        mpil := v.extractLsb' 16 8, exccode := v.extractLsb' 0 12 } ∧
      t.csr.mstatus.mpie = v.getLsbD 27 ∧ LegalMpp s.cfg (v.extractLsb' 28 2) t.csr.mstatus.mpp ∧
      t.csr.mstatus.mie = s.csr.mstatus.mie ∧ t.csr.mstatus.xs = s.csr.mstatus.xs) ∧
    (r = .msavestatus → t.csr.save1.mpie = v.getLsbD 0 ∧ LegalMpp s.cfg (v.extractLsb' 1 2) t.csr.save1.mpp ∧
      t.csr.save1.ptyp = v.extractLsb' 6 2 ∧ t.csr.save2.mpie = v.getLsbD 8 ∧
      LegalMpp s.cfg (v.extractLsb' 9 2) t.csr.save2.mpp ∧ t.csr.save2.ptyp = v.extractLsb' 14 2)

/-- A CSR write changes no CSR that does not show the same storage; the halves of `minstret` also count the instruction,
unless it writes one of them (R50, R298). -/
def Obligations.CsrWriteFrame : Prop :=
  ∀ (s t : State) (f : CsrForm) (rd : Reg) (a : BitVec 12) (u : BitVec 5) (r q : CsrReg),
    csrOfAddr a = some (.reg r) → csrAllowed s (.reg r) (f.writes u) = true → f.writes u = true →
    exec (f.instr rd a u) s = .next t → showsStorage r q = false →
    (countsRetired q = false ∨ countsRetired r = true → csrRead t q = csrRead s q) ∧
    (countsRetired r = false →
      t.csr.minstret = if s.csr.inhibitIr then s.csr.minstret else s.csr.minstret + 1#64)

/-- A CSR instruction takes Illegal Instruction, with its word in `mtval`, on an address that is no CSR, on a write to a
read-only CSR, and in User Mode on everything but a read of an enabled counter; `mcounteren` is no CSR without User Mode
(R285 to R289). So does `mret` in User Mode (R300). -/
def Obligations.CsrAccessTraps : Prop :=
  ∀ (s : State) (f : CsrForm) (rd : Reg) (a : BitVec 12) (u : BitVec 5),
    (csrOfAddr a = none ∨
      (∃ n, csrOfAddr a = some n ∧
        ((f.writes u = true ∧ csrAttr n ≠ .mrw) ∨ (s.priv = .U ∧ (csrAttr n ≠ .uro ∨ counterEnabled s n = false)))) ∨
      (csrOfAddr a = some (.reg .mcounteren) ∧ s.cfg.hasUMode = false) →
      RunsTo (f.instr rd a u) s (fun t => TakesException s t 2#12 (encode (f.instr rd a u)).value)) ∧
    (s.priv = .U → RunsTo .mret s (fun t => TakesException s t 2#12 0x30200073#32))

/-- `csrrw` on `mscratchcsw` (0x348) and `mscratchcswl` (0x349) in Machine Mode swaps `rs1` and `mscratch` if the trap
came from another mode, or exactly one of the two levels is 0, and else copies `rs1` to `rd` (R303, R304). -/
def Obligations.ScratchSwap : Prop :=
  ∀ (s : State) (rd rs1 : Reg) (a : BitVec 12), s.priv = .M →
    ((a = 0x348#12 ∧ s.csr.mstatus.mpp ≠ .M) ∨
      (a = 0x349#12 ∧ ¬ (s.csr.mcause.mpil = 0#8 ↔ s.csr.mil = 0#8)) →
      RunsTo (.csrrw rd a rs1) s (fun t =>
        Computes { s with csr := { s.csr with mscratch := readReg s rs1 } } t rd s.csr.mscratch (s.pc + 4#32))) ∧
    ((a = 0x348#12 ∧ s.csr.mstatus.mpp = .M) ∨
      (a = 0x349#12 ∧ (s.csr.mcause.mpil = 0#8 ↔ s.csr.mil = 0#8)) →
      RunsTo (.csrrw rd a rs1) s (fun t => Computes s t rd (readReg s rs1) (s.pc + 4#32)))

/-- `mnxti` (0x345) in Machine Mode with nothing to claim returns 0 and makes its write to `mstatus`: no request, or a
vectored one, or one not above MPIL (R305; for MPP log 26). -/
def Obligations.MnxtiWithoutRequest : Prop :=
  ∀ (s : State) (f : CsrForm) (rd : Reg) (u : BitVec 5), s.priv = .M → f.described .mnxti = true →
    (∀ r, eclicRequest s.cfg s.eclic = some r → r.shv = true ∨ r.level.toNat ≤ s.csr.mcause.mpil.toNat) →
    RunsTo (f.instr rd 0x345#12 u) s (fun t => ∃ m : Mstatus,
      Computes { s with csr := { s.csr with mstatus := m } } t rd 0#32 (s.pc + 4#32) ∧
      (f.writes u = false → m = s.csr.mstatus) ∧
      (f.writes u = true → MstatusWritten s.cfg m (f.newValue (csrRead s .mstatus) (f.operand s u))))

/-- `mnxti` in Machine Mode with a non-vectored request above MPIL returns its handler, or the address of its table entry
where the implementation does so; if the form writes, it claims the source: `mstatus` written, EXCCODE and MIL set, an
edge-triggered source no longer pending, a delivered bus error gone. On a device the handler is what the device answers
(R305, R418, R478; log 23; for MPP log 26). -/
def Obligations.MnxtiClaims : Prop :=
  ∀ (s : State) (f : CsrForm) (rd : Reg) (u : BitVec 5) (r : Candidate) (a : Word), s.priv = .M →
    f.described .mnxti = true → eclicRequest s.cfg s.eclic = some r → r.shv = false →
    s.csr.mcause.mpil.toNat < r.level.toNat → a = s.csr.mtvt + 4#32 * BitVec.ofNat 32 r.id →
    s.cfg.mnxtiReturnsEntryAddress = true ∨ CanReadVector s a →
    RunsTo (f.instr rd 0x345#12 u) s (fun t => ∃ (m : Mstatus) (e : Eclic),
      (f.writes u = false →
        Computes s t rd (if s.cfg.mnxtiReturnsEntryAddress then a else vectorWord s a) (s.pc + 4#32)) ∧
      (f.writes u = true →
        Computes { s with
            csr := { s.csr with
              mstatus := m, mil := r.level, mcause := { s.csr.mcause with exccode := BitVec.ofNat 12 r.id } },
            eclic := e,
            busErr := busErrClaimed s.busErr r.id } t rd
          (if s.cfg.mnxtiReturnsEntryAddress then a else vectorWord s a) (s.pc + 4#32) ∧
        MstatusWritten s.cfg m (f.newValue (csrRead s .mstatus) (f.operand s u)) ∧ IpCleared s.eclic e r.id))

/-- `jalmnxti` (0x7ED) with `csrrw` in Machine Mode: with nothing to claim it goes on; else it claims the source, sets
MIE, and calls the handler, on a device the one the device answers (log 23), with the link to itself in `rd` (R306,
R478). -/
def Obligations.JalmnxtiResults : Prop :=
  ∀ (s : State) (rd rs1 : Reg), s.priv = .M →
    ((∀ r, eclicRequest s.cfg s.eclic = some r → r.shv = true ∨ r.level.toNat ≤ s.csr.mcause.mpil.toNat) →
      RunsTo (.csrrw rd 0x7ED#12 rs1) s (fun t => Computes s t 0#5 0#32 (s.pc + 4#32))) ∧
    (∀ r a, eclicRequest s.cfg s.eclic = some r → r.shv = false → s.csr.mcause.mpil.toNat < r.level.toNat →
      a = s.csr.mtvt + 4#32 * BitVec.ofNat 32 r.id → CanReadVector s a →
      RunsTo (.csrrw rd 0x7ED#12 rs1) s (fun t => ∃ e : Eclic, IpCleared s.eclic e r.id ∧
        Computes { s with
            csr := { s.csr with
              mstatus := { s.csr.mstatus with mie := true }, mil := r.level,
              mcause := { s.csr.mcause with exccode := BitVec.ofNat 12 r.id } },
            eclic := e,
            busErr := busErrClaimed s.busErr r.id } t rd s.pc ((vectorWord s a).extractLsb' 1 31 ++ 0#1)))

/-- `mnxti` (unless it returns the entry's address) and `jalmnxti`, with a source to claim whose table entry cannot be
read, take Instruction access fault at the entry's address and claim nothing (R305, R306, R479). -/
def Obligations.ClaimReadFails : Prop :=
  ∀ (s : State) (f : CsrForm) (rd rs1 : Reg) (u : BitVec 5) (r : Candidate) (a : Word), s.priv = .M →
    f.described .mnxti = true → eclicRequest s.cfg s.eclic = some r → r.shv = false →
    s.csr.mcause.mpil.toNat < r.level.toNat → a = s.csr.mtvt + 4#32 * BitVec.ofNat 32 r.id → ¬ CanReadVector s a →
    (s.cfg.mnxtiReturnsEntryAddress = false →
      RunsTo (f.instr rd 0x345#12 u) s (fun t => TakesException s t 1#12 a)) ∧
    RunsTo (.csrrw rd 0x7ED#12 rs1) s (fun t => TakesException s t 1#12 a)

/-- `csrrwi` on `pushmsubm` (0x7EB), `pushmcause` (0x7EE) and `pushmepc` (0x7EF) in Machine Mode stores the CSR's value
at `x2 + 4 * uimm`, and `rd` if not x0 receives a free value; RAM, the TIMER and the ECLIC receive the word as from `sw`,
elsewhere it stores nothing and may record a bus error; misaligned it takes exception 6 (R127, R135, R136, R308, log 9,
log 14, log 15). -/
def Obligations.PushResults : Prop :=
  ∀ (s : State) (rd : Reg) (c : BitVec 12) (u : BitVec 5) (a v : Word), s.priv = .M →
    a = readReg s 2#5 + 4#32 * u.zeroExtend 32 →
    ((c = 0x7EB#12 ∧ v = csrRead s .msubm) ∨ (c = 0x7EE#12 ∧ v = csrRead s .mcause) ∨
      (c = 0x7EF#12 ∧ v = csrRead s .mepc)) →
    (s.mem.wf = true → placeOf s.cfg a = .ram → a.toNat % 4 = 0 → RunsTo (.csrrwi rd c u) s (fun t =>
      Stores { s with x := t.x } t a 4 v (s.pc + 4#32) ∧ ∃ w, RegWrite s t rd w)) ∧
    (placeOf s.cfg a = .nothing ∨ placeOf s.cfg a = .rom ∨ (∃ x, placeOf s.cfg a = .device x) → a.toNat % 4 = 0 →
      ∃ w, RunsTo (.csrrwi rd c u) s (fun t =>
        Computes { s with
            busErr := if placeOf s.cfg a = .nothing ∨ s.now.busError = true then ⟨true, true, a⟩ else s.busErr,
            reservation := reservationAfter s a 4 } t rd w (s.pc + 4#32))) ∧
    (placeOf s.cfg a = .timer → a.toNat % 4 = 0 → ∃ w, RunsTo (.csrrwi rd c u) s (fun t =>
      Computes { s with
          timer := timerStored s.timer (a - s.cfg.timerBase).toNat v,
          reservation := reservationAfter s a 4 } t rd w (s.pc + 4#32))) ∧
    (placeOf s.cfg a = .eclic → a.toNat % 4 = 0 → s.eclic.sources.length = s.cfg.numInterrupt →
      ∃ w, RunsTo (.csrrwi rd c u) s (fun t => ∃ e : Eclic,
        Computes { s with eclic := e, reservation := reservationAfter s a 4 } t rd w (s.pc + 4#32) ∧
        EclicStored s.cfg s.eclic e (a - s.cfg.eclicBase).toNat 4 v)) ∧
    (a.toNat % 4 ≠ 0 → RunsTo (.csrrwi rd c u) s (fun t => TakesException s t 6#12 a))

/-- A form the spec does not describe on an operation CSR, in Machine Mode, stops by name (R303 to R308, U61). -/
def Obligations.UndescribedFormsStop : Prop :=
  ∀ (s : State) (f : CsrForm) (rd : Reg) (a : BitVec 12) (u : BitVec 5) (o : CsrOp), s.priv = .M →
    csrOfAddr a = some (.op o) → f.described o = false → exec (f.instr rd a u) s = .refused .csrAccessForm

/-! ## Atomic instructions -/

/-- `lr.w` from RAM or ROM completes with the word in `rd` and reserves it (R341). -/
def Obligations.LoadReserved : Prop :=
  ∀ (s : State) (rd rs1 : Reg) (aq rl : BitVec 1), inMemory s (readReg s rs1) → (readReg s rs1).toNat % 4 = 0 →
    RunsTo (.lrW rd rs1 aq rl) s (fun t =>
      Computes { s with reservation := some (readReg s rs1) } t rd (wordAt s (readReg s rs1)) (s.pc + 4#32))

/-- An aligned `sc.w` with a reservation of its word in RAM and no spurious failure stores and returns 0; on a ROM, or
where nothing answers, it returns 0 too, and its store is ignored or records a bus error; without a reservation of that
word, or on a spurious failure, it returns 1 and stores nothing; the reservation is gone in every case (R127, R342;
log 12, log 15; that it returns 0 outside RAM is read from R342, log 32). -/
def Obligations.StoreConditional : Prop :=
  ∀ (s : State) (rd rs2 rs1 : Reg) (aq rl : BitVec 1) (a : Word), a = readReg s rs1 → a.toNat % 4 = 0 →
    (s.mem.wf = true → placeOf s.cfg a = .ram → s.reservation = some a → s.now.scFail = false →
      RunsTo (.scW rd rs2 rs1 aq rl) s (fun t =>
        RegWrite s t rd 0#32 ∧
        Stores { s with x := t.x, reservation := none } t a 4 (readReg s rs2) (s.pc + 4#32))) ∧
    (placeOf s.cfg a = .rom ∨ placeOf s.cfg a = .nothing → s.reservation = some a → s.now.scFail = false →
      RunsTo (.scW rd rs2 rs1 aq rl) s (fun t =>
        Computes { s with
            reservation := none,
            busErr := if placeOf s.cfg a = .nothing ∨ s.now.busError = true then ⟨true, true, a⟩ else s.busErr } t rd
          0#32 (s.pc + 4#32))) ∧
    (inMemory s a ∨ placeOf s.cfg a = .nothing → s.reservation ≠ some a ∨ s.now.scFail = true →
      RunsTo (.scW rd rs2 rs1 aq rl) s (fun t =>
        Computes { s with reservation := none } t rd 1#32 (s.pc + 4#32)))

/-- Each of the nine AMOs on an aligned word of RAM completes: `rd` receives the old word, and the new one is stored;
`x[rs2]` is read before `rd` is written (R343 to R351). -/
def Obligations.AtomicUpdates : Prop :=
  ∀ (s : State) (i : Instr) (rd rs2 rs1 : Reg) (f : Word → Word → Word) (a : Word), Amo i rd rs2 rs1 f →
    a = readReg s rs1 → s.mem.wf = true → placeOf s.cfg a = .ram → a.toNat % 4 = 0 →
    RunsTo i s (fun t => RegWrite s t rd (wordAt s a) ∧
      Stores { s with x := t.x } t a 4 (f (wordAt s a) (readReg s rs2)) (s.pc + 4#32))

/-- Aligned atomics outside RAM: on a ROM an AMO returns the word and its store is ignored or draws a bus error; where
nothing answers `lr.w` and the AMOs return a free value and record one bus error, of a store for an AMO (log 32); on the
TIMER, the ECLIC or another device `lr.w`, `sc.w` and the AMOs stop by name (R121, R131, R145, R340, U63, log 9, log 15,
log 29). -/
def Obligations.AtomicsOutsideRam : Prop :=
  ∀ (s : State) (i : Instr) (rd rs2 rs1 : Reg) (f : Word → Word → Word) (aq rl : BitVec 1) (a : Word),
    Amo i rd rs2 rs1 f → a = readReg s rs1 → a.toNat % 4 = 0 →
    (placeOf s.cfg a = .rom → RunsTo i s (fun t =>
      Computes { s with
          busErr := if s.now.busError then ⟨true, true, a⟩ else s.busErr,
          reservation := reservationAfter s a 4 } t rd (wordAt s a) (s.pc + 4#32))) ∧
    (placeOf s.cfg a = .nothing → ∃ v,
      RunsTo i s (fun t => Computes { s with busErr := ⟨true, true, a⟩, reservation := reservationAfter s a 4 } t rd v
        (s.pc + 4#32)) ∧
      RunsTo (.lrW rd rs1 aq rl) s (fun t =>
        Computes { s with busErr := ⟨true, false, a⟩, reservation := some a } t rd v (s.pc + 4#32))) ∧
    (placeOf s.cfg a = .timer ∨ placeOf s.cfg a = .eclic ∨ (∃ x, placeOf s.cfg a = .device x) →
      exec i s = .refused .atomicOnDevice ∧ exec (.lrW rd rs1 aq rl) s = .refused .atomicOnDevice ∧
      exec (.scW rd rs2 rs1 aq rl) s = .refused .atomicOnDevice)

/-! ## Compressed instructions -/

/-- The compressed computational instructions complete with the results of R363, R366, R367, R369 to R378, R382, R385,
R388; a primed register of field f is x(8 + f). -/
def Obligations.CompressedResults : Prop :=
  ∀ (s : State) (rd rs2 : Reg) (crd crs2 : CReg) (nz8 : BitVec 8) (i6 : BitVec 6) (sh : BitVec 5) (d : Reg) (a b : Word),
    d = 1#2 ++ crd → a = readReg s d → b = readReg s (1#2 ++ crs2) →
    RunsTo (.cAddi4spn crd nz8) s
      (fun t => Computes s t d (readReg s 2#5 + (nz8 ++ 0#2).zeroExtend 32) (s.pc + 2#32)) ∧
    RunsTo (.cNop i6) s (fun t => Computes s t 0#5 0#32 (s.pc + 2#32)) ∧
    RunsTo (.cAddi rd i6) s (fun t => Computes s t rd (readReg s rd + i6.signExtend 32) (s.pc + 2#32)) ∧
    RunsTo (.cLi rd i6) s (fun t => Computes s t rd (i6.signExtend 32) (s.pc + 2#32)) ∧
    RunsTo (.cAddi16sp i6) s
      (fun t => Computes s t 2#5 (readReg s 2#5 + (i6 ++ 0#4).signExtend 32) (s.pc + 2#32)) ∧
    RunsTo (.cLui rd i6) s (fun t => Computes s t rd ((i6 ++ 0#12).signExtend 32) (s.pc + 2#32)) ∧
    RunsTo (.cSrli crd sh) s (fun t => Computes s t d (a >>> sh.toNat) (s.pc + 2#32)) ∧
    RunsTo (.cSrai crd sh) s (fun t => Computes s t d (a.sshiftRight sh.toNat) (s.pc + 2#32)) ∧
    RunsTo (.cAndi crd i6) s (fun t => Computes s t d (a &&& i6.signExtend 32) (s.pc + 2#32)) ∧
    RunsTo (.cSub crd crs2) s (fun t => Computes s t d (a - b) (s.pc + 2#32)) ∧
    RunsTo (.cXor crd crs2) s (fun t => Computes s t d (a ^^^ b) (s.pc + 2#32)) ∧
    RunsTo (.cOr crd crs2) s (fun t => Computes s t d (a ||| b) (s.pc + 2#32)) ∧
    RunsTo (.cAnd crd crs2) s (fun t => Computes s t d (a &&& b) (s.pc + 2#32)) ∧
    RunsTo (.cSlli rd sh) s (fun t => Computes s t rd (readReg s rd <<< sh.toNat) (s.pc + 2#32)) ∧
    RunsTo (.cMv rd rs2) s (fun t => Computes s t rd (readReg s rs2) (s.pc + 2#32)) ∧
    RunsTo (.cAdd rd rs2) s (fun t => Computes s t rd (readReg s rd + readReg s rs2) (s.pc + 2#32))

/-- The compressed control transfers complete: links are `pc + 2`, register targets have bit 0 clear and come from the
old register, branches compare with zero (R368, R379 to R381, R384, R387). -/
def Obligations.CompressedControlResults : Prop :=
  ∀ (s : State) (rs1 : Reg) (crs1 : CReg) (o11 : BitVec 11) (o8 : BitVec 8) (j target : Word),
    j = s.pc + (o11 ++ 0#1).signExtend 32 → target = (readReg s rs1).extractLsb' 1 31 ++ 0#1 →
    RunsTo (.cJ o11) s (fun t => Computes s t 0#5 0#32 j) ∧
    RunsTo (.cJal o11) s (fun t => Computes s t 1#5 (s.pc + 2#32) j) ∧
    RunsTo (.cJr rs1) s (fun t => Computes s t 0#5 0#32 target) ∧
    RunsTo (.cJalr rs1) s (fun t => Computes s t 1#5 (s.pc + 2#32) target) ∧
    RunsTo (.cBeqz crs1 o8) s (fun t => Computes s t 0#5 0#32
      (if readReg s (1#2 ++ crs1) = 0#32 then s.pc + (o8 ++ 0#1).signExtend 32 else s.pc + 2#32)) ∧
    RunsTo (.cBnez crs1 o8) s (fun t => Computes s t 0#5 0#32
      (if readReg s (1#2 ++ crs1) = 0#32 then s.pc + 2#32 else s.pc + (o8 ++ 0#1).signExtend 32))
end

