-- ==== Sys2Proof/Laws/Decode.lean ====
section
/-! SUPPORT. Reading a field back out of a concatenation of fields: the two lemmas that every proof about encoding and
decoding peels a format with. -/

namespace Sys2Proof

/-- A field inside the low part of a concatenation. -/
theorem extract_append_low {m n : Nat} (x : BitVec m) (y : BitVec n) (i k : Nat) (h : i + k ≤ n) :
    (x ++ y).extractLsb' i k = y.extractLsb' i k := by
  apply BitVec.eq_of_getLsbD_eq
  intro j hj
  simp only [BitVec.getLsbD_extractLsb', BitVec.getLsbD_append, hj, decide_true, Bool.true_and]
  rw [if_pos (by omega)]

/-- A field inside the high part of a concatenation. -/
theorem extract_append_high {m n : Nat} (x : BitVec m) (y : BitVec n) (i k : Nat) (h : n ≤ i) :
    (x ++ y).extractLsb' i k = x.extractLsb' (i - n) k := by
  apply BitVec.eq_of_getLsbD_eq
  intro j hj
  simp only [BitVec.getLsbD_extractLsb', BitVec.getLsbD_append, hj, decide_true, Bool.true_and]
  rw [if_neg (by omega)]
  congr 1
  omega

/-- A field that is the whole. -/
theorem extract_all {n : Nat} (x : BitVec n) : x.extractLsb' 0 n = x := by simp

/-- Two neighbouring fields joined are one field. -/
theorem extract_join {n : Nat} (x : BitVec n) (i k l : Nat) :
    x.extractLsb' (i + l) k ++ x.extractLsb' i l = x.extractLsb' i (k + l) := by
  apply BitVec.eq_of_getLsbD_eq
  intro j hj
  simp only [BitVec.getLsbD_extractLsb', BitVec.getLsbD_append, hj, decide_true, Bool.true_and]
  split
  · next h => simp [h]
  · next h =>
    rw [show i + l + (j - l) = i + j by omega]
    simp [show j - l < k by omega]

/-- The low two bits of a 32-bit format are those of its opcode (R161). -/
theorem lowBits_append {m : Nat} (x : BitVec m) (op : BitVec 7) : (x ++ op).extractLsb' 0 2 = op.extractLsb' 0 2 :=
  extract_append_low x op 0 2 (by decide)

/-- A parcel is its two bytes. -/
theorem half_of_bytes (h : Half) : h.extractLsb' 8 8 ++ h.extractLsb' 0 8 = h := by
  apply BitVec.eq_of_getLsbD_eq
  intro i hi
  simp only [BitVec.getLsbD_append, BitVec.getLsbD_extractLsb']
  by_cases h8 : i < 8
  · simp [h8]
  · rw [if_neg h8, show 8 + (i - 8) = i by omega]
    simp only [Bool.and_eq_right_iff_imp, decide_eq_true_eq]
    omega

/-- A word is the bytes of its two parcels. -/
theorem word_of_bytes (hi lo : Half) :
    (hi.extractLsb' 8 8 ++ hi.extractLsb' 0 8 ++ lo.extractLsb' 8 8 ++ lo.extractLsb' 0 8 : Word) = hi ++ lo := by
  conv => rhs; rw [← half_of_bytes hi, ← half_of_bytes lo]
  rw [BitVec.append_assoc]
  rfl

end Sys2Proof
end

