-- ==== Sys2Proof/Laws/State.lean ====
section
/-! SUPPORT. One lemma per field per shared operation: the fields an operation leaves alone, as rewrite rules, so that no
later proof unfolds a record update. -/

namespace Sys2Proof.Machine

/-! ### setReg -/

@[simp] theorem setReg_cfg (r : Reg) (v : Word) (s : State) : (setReg r v s).cfg = s.cfg := by
  unfold setReg; (repeat' split) <;> rfl
@[simp] theorem setReg_pc (r : Reg) (v : Word) (s : State) : (setReg r v s).pc = s.pc := by
  unfold setReg; (repeat' split) <;> rfl
@[simp] theorem setReg_priv (r : Reg) (v : Word) (s : State) : (setReg r v s).priv = s.priv := by
  unfold setReg; (repeat' split) <;> rfl
@[simp] theorem setReg_csr (r : Reg) (v : Word) (s : State) : (setReg r v s).csr = s.csr := by
  unfold setReg; (repeat' split) <;> rfl
@[simp] theorem setReg_timer (r : Reg) (v : Word) (s : State) : (setReg r v s).timer = s.timer := by
  unfold setReg; (repeat' split) <;> rfl
@[simp] theorem setReg_eclic (r : Reg) (v : Word) (s : State) : (setReg r v s).eclic = s.eclic := by
  unfold setReg; (repeat' split) <;> rfl
@[simp] theorem setReg_reservation (r : Reg) (v : Word) (s : State) : (setReg r v s).reservation = s.reservation := by
  unfold setReg; (repeat' split) <;> rfl
@[simp] theorem setReg_nmiPending (r : Reg) (v : Word) (s : State) : (setReg r v s).nmiPending = s.nmiPending := by
  unfold setReg; (repeat' split) <;> rfl
@[simp] theorem setReg_nmiPrev (r : Reg) (v : Word) (s : State) : (setReg r v s).nmiPrev = s.nmiPrev := by
  unfold setReg; (repeat' split) <;> rfl
@[simp] theorem setReg_sleeping (r : Reg) (v : Word) (s : State) : (setReg r v s).sleeping = s.sleeping := by
  unfold setReg; (repeat' split) <;> rfl
@[simp] theorem setReg_busErr (r : Reg) (v : Word) (s : State) : (setReg r v s).busErr = s.busErr := by
  unfold setReg; (repeat' split) <;> rfl
@[simp] theorem setReg_txEvt (r : Reg) (v : Word) (s : State) : (setReg r v s).txEvt = s.txEvt := by
  unfold setReg; (repeat' split) <;> rfl
@[simp] theorem setReg_mem (r : Reg) (v : Word) (s : State) : (setReg r v s).mem = s.mem := by
  unfold setReg; (repeat' split) <;> rfl
@[simp] theorem setReg_stale (r : Reg) (v : Word) (s : State) : (setReg r v s).stale = s.stale := by
  unfold setReg; (repeat' split) <;> rfl
@[simp] theorem setReg_now (r : Reg) (v : Word) (s : State) : (setReg r v s).now = s.now := by
  unfold setReg; (repeat' split) <;> rfl
@[simp] theorem setReg_future (r : Reg) (v : Word) (s : State) : (setReg r v s).future = s.future := by
  unfold setReg; (repeat' split) <;> rfl
@[simp] theorem setReg_draws (r : Reg) (v : Word) (s : State) : (setReg r v s).draws = s.draws := by
  unfold setReg; (repeat' split) <;> rfl

/-! ### countRetired -/

@[simp] theorem countRetired_cfg (s : State) : (countRetired s).cfg = s.cfg := by
  unfold countRetired; (repeat' split) <;> rfl
@[simp] theorem countRetired_x (s : State) : (countRetired s).x = s.x := by
  unfold countRetired; (repeat' split) <;> rfl
@[simp] theorem countRetired_pc (s : State) : (countRetired s).pc = s.pc := by
  unfold countRetired; (repeat' split) <;> rfl
@[simp] theorem countRetired_priv (s : State) : (countRetired s).priv = s.priv := by
  unfold countRetired; (repeat' split) <;> rfl
@[simp] theorem countRetired_timer (s : State) : (countRetired s).timer = s.timer := by
  unfold countRetired; (repeat' split) <;> rfl
@[simp] theorem countRetired_eclic (s : State) : (countRetired s).eclic = s.eclic := by
  unfold countRetired; (repeat' split) <;> rfl
@[simp] theorem countRetired_reservation (s : State) : (countRetired s).reservation = s.reservation := by
  unfold countRetired; (repeat' split) <;> rfl
@[simp] theorem countRetired_nmiPending (s : State) : (countRetired s).nmiPending = s.nmiPending := by
  unfold countRetired; (repeat' split) <;> rfl
@[simp] theorem countRetired_nmiPrev (s : State) : (countRetired s).nmiPrev = s.nmiPrev := by
  unfold countRetired; (repeat' split) <;> rfl
@[simp] theorem countRetired_sleeping (s : State) : (countRetired s).sleeping = s.sleeping := by
  unfold countRetired; (repeat' split) <;> rfl
@[simp] theorem countRetired_busErr (s : State) : (countRetired s).busErr = s.busErr := by
  unfold countRetired; (repeat' split) <;> rfl
@[simp] theorem countRetired_txEvt (s : State) : (countRetired s).txEvt = s.txEvt := by
  unfold countRetired; (repeat' split) <;> rfl
@[simp] theorem countRetired_mem (s : State) : (countRetired s).mem = s.mem := by
  unfold countRetired; (repeat' split) <;> rfl
@[simp] theorem countRetired_stale (s : State) : (countRetired s).stale = s.stale := by
  unfold countRetired; (repeat' split) <;> rfl
@[simp] theorem countRetired_now (s : State) : (countRetired s).now = s.now := by
  unfold countRetired; (repeat' split) <;> rfl
@[simp] theorem countRetired_future (s : State) : (countRetired s).future = s.future := by
  unfold countRetired; (repeat' split) <;> rfl
@[simp] theorem countRetired_draws (s : State) : (countRetired s).draws = s.draws := by
  unfold countRetired; (repeat' split) <;> rfl
@[simp] theorem countRetired_csr_mstatus (s : State) : (countRetired s).csr.mstatus = s.csr.mstatus := by
  unfold countRetired; (repeat' split) <;> rfl
@[simp] theorem countRetired_csr_mtvec (s : State) : (countRetired s).csr.mtvec = s.csr.mtvec := by
  unfold countRetired; (repeat' split) <;> rfl
@[simp] theorem countRetired_csr_mtvt (s : State) : (countRetired s).csr.mtvt = s.csr.mtvt := by
  unfold countRetired; (repeat' split) <;> rfl
@[simp] theorem countRetired_csr_mscratch (s : State) : (countRetired s).csr.mscratch = s.csr.mscratch := by
  unfold countRetired; (repeat' split) <;> rfl
@[simp] theorem countRetired_csr_mepc (s : State) : (countRetired s).csr.mepc = s.csr.mepc := by
  unfold countRetired; (repeat' split) <;> rfl
@[simp] theorem countRetired_csr_mcause (s : State) : (countRetired s).csr.mcause = s.csr.mcause := by
  unfold countRetired; (repeat' split) <;> rfl
@[simp] theorem countRetired_csr_mtval (s : State) : (countRetired s).csr.mtval = s.csr.mtval := by
  unfold countRetired; (repeat' split) <;> rfl
@[simp] theorem countRetired_csr_mil (s : State) : (countRetired s).csr.mil = s.csr.mil := by
  unfold countRetired; (repeat' split) <;> rfl
@[simp] theorem countRetired_csr_mcycle (s : State) : (countRetired s).csr.mcycle = s.csr.mcycle := by
  unfold countRetired; (repeat' split) <;> rfl
@[simp] theorem countRetired_csr_mcounteren (s : State) : (countRetired s).csr.mcounteren = s.csr.mcounteren := by
  unfold countRetired; (repeat' split) <;> rfl
@[simp] theorem countRetired_csr_inhibitCy (s : State) : (countRetired s).csr.inhibitCy = s.csr.inhibitCy := by
  unfold countRetired; (repeat' split) <;> rfl
@[simp] theorem countRetired_csr_inhibitIr (s : State) : (countRetired s).csr.inhibitIr = s.csr.inhibitIr := by
  unfold countRetired; (repeat' split) <;> rfl
@[simp] theorem countRetired_csr_msubm (s : State) : (countRetired s).csr.msubm = s.csr.msubm := by
  unfold countRetired; (repeat' split) <;> rfl
@[simp] theorem countRetired_csr_nmiCauseFff (s : State) : (countRetired s).csr.nmiCauseFff = s.csr.nmiCauseFff := by
  unfold countRetired; (repeat' split) <;> rfl
@[simp] theorem countRetired_csr_save1 (s : State) : (countRetired s).csr.save1 = s.csr.save1 := by
  unfold countRetired; (repeat' split) <;> rfl
@[simp] theorem countRetired_csr_save2 (s : State) : (countRetired s).csr.save2 = s.csr.save2 := by
  unfold countRetired; (repeat' split) <;> rfl
@[simp] theorem countRetired_csr_msaveepc1 (s : State) : (countRetired s).csr.msaveepc1 = s.csr.msaveepc1 := by
  unfold countRetired; (repeat' split) <;> rfl
@[simp] theorem countRetired_csr_msaveepc2 (s : State) : (countRetired s).csr.msaveepc2 = s.csr.msaveepc2 := by
  unfold countRetired; (repeat' split) <;> rfl
@[simp] theorem countRetired_csr_msavecause1 (s : State) : (countRetired s).csr.msavecause1 = s.csr.msavecause1 := by
  unfold countRetired; (repeat' split) <;> rfl
@[simp] theorem countRetired_csr_msavecause2 (s : State) : (countRetired s).csr.msavecause2 = s.csr.msavecause2 := by
  unfold countRetired; (repeat' split) <;> rfl
@[simp] theorem countRetired_csr_commonEntry (s : State) : (countRetired s).csr.commonEntry = s.csr.commonEntry := by
  unfold countRetired; (repeat' split) <;> rfl
@[simp] theorem countRetired_csr_mtvt2en (s : State) : (countRetired s).csr.mtvt2en = s.csr.mtvt2en := by
  unfold countRetired; (repeat' split) <;> rfl
@[simp] theorem countRetired_csr_sleepvalue (s : State) : (countRetired s).csr.sleepvalue = s.csr.sleepvalue := by
  unfold countRetired; (repeat' split) <;> rfl
@[simp] theorem countRetired_csr_wfe (s : State) : (countRetired s).csr.wfe = s.csr.wfe := by
  unfold countRetired; (repeat' split) <;> rfl
@[simp] theorem countRetired_csr_minstret (s : State) :
    (countRetired s).csr.minstret = if s.csr.inhibitIr then s.csr.minstret else s.csr.minstret + 1#64 := by
  unfold countRetired; split <;> rfl

/-! ### drawn -/

@[simp] theorem drawn_cfg (s : State) : (drawn s).cfg = s.cfg := rfl
@[simp] theorem drawn_x (s : State) : (drawn s).x = s.x := rfl
@[simp] theorem drawn_pc (s : State) : (drawn s).pc = s.pc := rfl
@[simp] theorem drawn_priv (s : State) : (drawn s).priv = s.priv := rfl
@[simp] theorem drawn_csr (s : State) : (drawn s).csr = s.csr := rfl
@[simp] theorem drawn_timer (s : State) : (drawn s).timer = s.timer := rfl
@[simp] theorem drawn_eclic (s : State) : (drawn s).eclic = s.eclic := rfl
@[simp] theorem drawn_reservation (s : State) : (drawn s).reservation = s.reservation := rfl
@[simp] theorem drawn_nmiPending (s : State) : (drawn s).nmiPending = s.nmiPending := rfl
@[simp] theorem drawn_nmiPrev (s : State) : (drawn s).nmiPrev = s.nmiPrev := rfl
@[simp] theorem drawn_sleeping (s : State) : (drawn s).sleeping = s.sleeping := rfl
@[simp] theorem drawn_busErr (s : State) : (drawn s).busErr = s.busErr := rfl
@[simp] theorem drawn_txEvt (s : State) : (drawn s).txEvt = s.txEvt := rfl
@[simp] theorem drawn_mem (s : State) : (drawn s).mem = s.mem := rfl
@[simp] theorem drawn_stale (s : State) : (drawn s).stale = s.stale := rfl
@[simp] theorem drawn_now (s : State) : (drawn s).now = s.now := rfl
@[simp] theorem drawn_future (s : State) : (drawn s).future = s.future := rfl

/-! ### storeByte -/

@[simp] theorem storeByte_cfg (a : Word) (b : Byte) (s : State) : (storeByte a b s).cfg = s.cfg := rfl
@[simp] theorem storeByte_x (a : Word) (b : Byte) (s : State) : (storeByte a b s).x = s.x := rfl
@[simp] theorem storeByte_pc (a : Word) (b : Byte) (s : State) : (storeByte a b s).pc = s.pc := rfl
@[simp] theorem storeByte_priv (a : Word) (b : Byte) (s : State) : (storeByte a b s).priv = s.priv := rfl
@[simp] theorem storeByte_csr (a : Word) (b : Byte) (s : State) : (storeByte a b s).csr = s.csr := rfl
@[simp] theorem storeByte_timer (a : Word) (b : Byte) (s : State) : (storeByte a b s).timer = s.timer := rfl
@[simp] theorem storeByte_eclic (a : Word) (b : Byte) (s : State) : (storeByte a b s).eclic = s.eclic := rfl
@[simp] theorem storeByte_reservation (a : Word) (b : Byte) (s : State) : (storeByte a b s).reservation = s.reservation := rfl
@[simp] theorem storeByte_nmiPending (a : Word) (b : Byte) (s : State) : (storeByte a b s).nmiPending = s.nmiPending := rfl
@[simp] theorem storeByte_nmiPrev (a : Word) (b : Byte) (s : State) : (storeByte a b s).nmiPrev = s.nmiPrev := rfl
@[simp] theorem storeByte_sleeping (a : Word) (b : Byte) (s : State) : (storeByte a b s).sleeping = s.sleeping := rfl
@[simp] theorem storeByte_busErr (a : Word) (b : Byte) (s : State) : (storeByte a b s).busErr = s.busErr := rfl
@[simp] theorem storeByte_txEvt (a : Word) (b : Byte) (s : State) : (storeByte a b s).txEvt = s.txEvt := rfl
@[simp] theorem storeByte_now (a : Word) (b : Byte) (s : State) : (storeByte a b s).now = s.now := rfl
@[simp] theorem storeByte_future (a : Word) (b : Byte) (s : State) : (storeByte a b s).future = s.future := rfl
@[simp] theorem storeByte_draws (a : Word) (b : Byte) (s : State) : (storeByte a b s).draws = s.draws := rfl

/-! ### storeBytes -/

@[simp] theorem storeBytes_cfg (a : Word) (n : Nat) (v : Word) (s : State) : (storeBytes a n v s).cfg = s.cfg := by
  unfold storeBytes; (repeat' split) <;> rfl
@[simp] theorem storeBytes_x (a : Word) (n : Nat) (v : Word) (s : State) : (storeBytes a n v s).x = s.x := by
  unfold storeBytes; (repeat' split) <;> rfl
@[simp] theorem storeBytes_pc (a : Word) (n : Nat) (v : Word) (s : State) : (storeBytes a n v s).pc = s.pc := by
  unfold storeBytes; (repeat' split) <;> rfl
@[simp] theorem storeBytes_priv (a : Word) (n : Nat) (v : Word) (s : State) : (storeBytes a n v s).priv = s.priv := by
  unfold storeBytes; (repeat' split) <;> rfl
@[simp] theorem storeBytes_csr (a : Word) (n : Nat) (v : Word) (s : State) : (storeBytes a n v s).csr = s.csr := by
  unfold storeBytes; (repeat' split) <;> rfl
@[simp] theorem storeBytes_timer (a : Word) (n : Nat) (v : Word) (s : State) : (storeBytes a n v s).timer = s.timer := by
  unfold storeBytes; (repeat' split) <;> rfl
@[simp] theorem storeBytes_eclic (a : Word) (n : Nat) (v : Word) (s : State) : (storeBytes a n v s).eclic = s.eclic := by
  unfold storeBytes; (repeat' split) <;> rfl
@[simp] theorem storeBytes_reservation (a : Word) (n : Nat) (v : Word) (s : State) : (storeBytes a n v s).reservation = s.reservation := by
  unfold storeBytes; (repeat' split) <;> rfl
@[simp] theorem storeBytes_nmiPending (a : Word) (n : Nat) (v : Word) (s : State) : (storeBytes a n v s).nmiPending = s.nmiPending := by
  unfold storeBytes; (repeat' split) <;> rfl
@[simp] theorem storeBytes_nmiPrev (a : Word) (n : Nat) (v : Word) (s : State) : (storeBytes a n v s).nmiPrev = s.nmiPrev := by
  unfold storeBytes; (repeat' split) <;> rfl
@[simp] theorem storeBytes_sleeping (a : Word) (n : Nat) (v : Word) (s : State) : (storeBytes a n v s).sleeping = s.sleeping := by
  unfold storeBytes; (repeat' split) <;> rfl
@[simp] theorem storeBytes_busErr (a : Word) (n : Nat) (v : Word) (s : State) : (storeBytes a n v s).busErr = s.busErr := by
  unfold storeBytes; (repeat' split) <;> rfl
@[simp] theorem storeBytes_txEvt (a : Word) (n : Nat) (v : Word) (s : State) : (storeBytes a n v s).txEvt = s.txEvt := by
  unfold storeBytes; (repeat' split) <;> rfl
@[simp] theorem storeBytes_now (a : Word) (n : Nat) (v : Word) (s : State) : (storeBytes a n v s).now = s.now := by
  unfold storeBytes; (repeat' split) <;> rfl
@[simp] theorem storeBytes_future (a : Word) (n : Nat) (v : Word) (s : State) : (storeBytes a n v s).future = s.future := by
  unfold storeBytes; (repeat' split) <;> rfl
@[simp] theorem storeBytes_draws (a : Word) (n : Nat) (v : Word) (s : State) : (storeBytes a n v s).draws = s.draws := by
  unfold storeBytes; (repeat' split) <;> rfl

/-! ### raiseBusError -/

@[simp] theorem raiseBusError_cfg (k : Bool) (a : Word) (s : State) : (raiseBusError k a s).cfg = s.cfg := rfl
@[simp] theorem raiseBusError_x (k : Bool) (a : Word) (s : State) : (raiseBusError k a s).x = s.x := rfl
@[simp] theorem raiseBusError_pc (k : Bool) (a : Word) (s : State) : (raiseBusError k a s).pc = s.pc := rfl
@[simp] theorem raiseBusError_priv (k : Bool) (a : Word) (s : State) : (raiseBusError k a s).priv = s.priv := rfl
@[simp] theorem raiseBusError_csr (k : Bool) (a : Word) (s : State) : (raiseBusError k a s).csr = s.csr := rfl
@[simp] theorem raiseBusError_timer (k : Bool) (a : Word) (s : State) : (raiseBusError k a s).timer = s.timer := rfl
@[simp] theorem raiseBusError_eclic (k : Bool) (a : Word) (s : State) : (raiseBusError k a s).eclic = s.eclic := rfl
@[simp] theorem raiseBusError_reservation (k : Bool) (a : Word) (s : State) : (raiseBusError k a s).reservation = s.reservation := rfl
@[simp] theorem raiseBusError_nmiPending (k : Bool) (a : Word) (s : State) : (raiseBusError k a s).nmiPending = s.nmiPending := rfl
@[simp] theorem raiseBusError_nmiPrev (k : Bool) (a : Word) (s : State) : (raiseBusError k a s).nmiPrev = s.nmiPrev := rfl
@[simp] theorem raiseBusError_sleeping (k : Bool) (a : Word) (s : State) : (raiseBusError k a s).sleeping = s.sleeping := rfl
@[simp] theorem raiseBusError_txEvt (k : Bool) (a : Word) (s : State) : (raiseBusError k a s).txEvt = s.txEvt := rfl
@[simp] theorem raiseBusError_mem (k : Bool) (a : Word) (s : State) : (raiseBusError k a s).mem = s.mem := rfl
@[simp] theorem raiseBusError_stale (k : Bool) (a : Word) (s : State) : (raiseBusError k a s).stale = s.stale := rfl
@[simp] theorem raiseBusError_now (k : Bool) (a : Word) (s : State) : (raiseBusError k a s).now = s.now := rfl
@[simp] theorem raiseBusError_future (k : Bool) (a : Word) (s : State) : (raiseBusError k a s).future = s.future := rfl
@[simp] theorem raiseBusError_draws (k : Bool) (a : Word) (s : State) : (raiseBusError k a s).draws = s.draws := rfl

/-! ### breakReservation -/

@[simp] theorem breakReservation_cfg (a : Word) (n : Nat) (s : State) : (breakReservation a n s).cfg = s.cfg := by
  unfold breakReservation; (repeat' split) <;> rfl
@[simp] theorem breakReservation_x (a : Word) (n : Nat) (s : State) : (breakReservation a n s).x = s.x := by
  unfold breakReservation; (repeat' split) <;> rfl
@[simp] theorem breakReservation_pc (a : Word) (n : Nat) (s : State) : (breakReservation a n s).pc = s.pc := by
  unfold breakReservation; (repeat' split) <;> rfl
@[simp] theorem breakReservation_priv (a : Word) (n : Nat) (s : State) : (breakReservation a n s).priv = s.priv := by
  unfold breakReservation; (repeat' split) <;> rfl
@[simp] theorem breakReservation_csr (a : Word) (n : Nat) (s : State) : (breakReservation a n s).csr = s.csr := by
  unfold breakReservation; (repeat' split) <;> rfl
@[simp] theorem breakReservation_timer (a : Word) (n : Nat) (s : State) : (breakReservation a n s).timer = s.timer := by
  unfold breakReservation; (repeat' split) <;> rfl
@[simp] theorem breakReservation_eclic (a : Word) (n : Nat) (s : State) : (breakReservation a n s).eclic = s.eclic := by
  unfold breakReservation; (repeat' split) <;> rfl
@[simp] theorem breakReservation_nmiPending (a : Word) (n : Nat) (s : State) : (breakReservation a n s).nmiPending = s.nmiPending := by
  unfold breakReservation; (repeat' split) <;> rfl
@[simp] theorem breakReservation_nmiPrev (a : Word) (n : Nat) (s : State) : (breakReservation a n s).nmiPrev = s.nmiPrev := by
  unfold breakReservation; (repeat' split) <;> rfl
@[simp] theorem breakReservation_sleeping (a : Word) (n : Nat) (s : State) : (breakReservation a n s).sleeping = s.sleeping := by
  unfold breakReservation; (repeat' split) <;> rfl
@[simp] theorem breakReservation_busErr (a : Word) (n : Nat) (s : State) : (breakReservation a n s).busErr = s.busErr := by
  unfold breakReservation; (repeat' split) <;> rfl
@[simp] theorem breakReservation_txEvt (a : Word) (n : Nat) (s : State) : (breakReservation a n s).txEvt = s.txEvt := by
  unfold breakReservation; (repeat' split) <;> rfl
@[simp] theorem breakReservation_mem (a : Word) (n : Nat) (s : State) : (breakReservation a n s).mem = s.mem := by
  unfold breakReservation; (repeat' split) <;> rfl
@[simp] theorem breakReservation_stale (a : Word) (n : Nat) (s : State) : (breakReservation a n s).stale = s.stale := by
  unfold breakReservation; (repeat' split) <;> rfl
@[simp] theorem breakReservation_now (a : Word) (n : Nat) (s : State) : (breakReservation a n s).now = s.now := by
  unfold breakReservation; (repeat' split) <;> rfl
@[simp] theorem breakReservation_future (a : Word) (n : Nat) (s : State) : (breakReservation a n s).future = s.future := by
  unfold breakReservation; (repeat' split) <;> rfl
@[simp] theorem breakReservation_draws (a : Word) (n : Nat) (s : State) : (breakReservation a n s).draws = s.draws := by
  unfold breakReservation; (repeat' split) <;> rfl

/-! ### stackPush -/

@[simp] theorem stackPush_cfg (s : State) : (stackPush s).cfg = s.cfg := rfl
@[simp] theorem stackPush_x (s : State) : (stackPush s).x = s.x := rfl
@[simp] theorem stackPush_pc (s : State) : (stackPush s).pc = s.pc := rfl
@[simp] theorem stackPush_priv (s : State) : (stackPush s).priv = s.priv := rfl
@[simp] theorem stackPush_timer (s : State) : (stackPush s).timer = s.timer := rfl
@[simp] theorem stackPush_eclic (s : State) : (stackPush s).eclic = s.eclic := rfl
@[simp] theorem stackPush_reservation (s : State) : (stackPush s).reservation = s.reservation := rfl
@[simp] theorem stackPush_nmiPending (s : State) : (stackPush s).nmiPending = s.nmiPending := rfl
@[simp] theorem stackPush_nmiPrev (s : State) : (stackPush s).nmiPrev = s.nmiPrev := rfl
@[simp] theorem stackPush_sleeping (s : State) : (stackPush s).sleeping = s.sleeping := rfl
@[simp] theorem stackPush_busErr (s : State) : (stackPush s).busErr = s.busErr := rfl
@[simp] theorem stackPush_txEvt (s : State) : (stackPush s).txEvt = s.txEvt := rfl
@[simp] theorem stackPush_mem (s : State) : (stackPush s).mem = s.mem := rfl
@[simp] theorem stackPush_stale (s : State) : (stackPush s).stale = s.stale := rfl
@[simp] theorem stackPush_now (s : State) : (stackPush s).now = s.now := rfl
@[simp] theorem stackPush_future (s : State) : (stackPush s).future = s.future := rfl
@[simp] theorem stackPush_draws (s : State) : (stackPush s).draws = s.draws := rfl

/-! ### enterTrap -/

@[simp] theorem enterTrap_cfg (typ : BitVec 2) (epc : Word) (s : State) : (enterTrap typ epc s).cfg = s.cfg := rfl
@[simp] theorem enterTrap_x (typ : BitVec 2) (epc : Word) (s : State) : (enterTrap typ epc s).x = s.x := rfl
@[simp] theorem enterTrap_pc (typ : BitVec 2) (epc : Word) (s : State) : (enterTrap typ epc s).pc = s.pc := rfl
@[simp] theorem enterTrap_timer (typ : BitVec 2) (epc : Word) (s : State) : (enterTrap typ epc s).timer = s.timer := rfl
@[simp] theorem enterTrap_eclic (typ : BitVec 2) (epc : Word) (s : State) : (enterTrap typ epc s).eclic = s.eclic := rfl
@[simp] theorem enterTrap_nmiPending (typ : BitVec 2) (epc : Word) (s : State) : (enterTrap typ epc s).nmiPending = s.nmiPending := rfl
@[simp] theorem enterTrap_nmiPrev (typ : BitVec 2) (epc : Word) (s : State) : (enterTrap typ epc s).nmiPrev = s.nmiPrev := rfl
@[simp] theorem enterTrap_sleeping (typ : BitVec 2) (epc : Word) (s : State) : (enterTrap typ epc s).sleeping = s.sleeping := rfl
@[simp] theorem enterTrap_busErr (typ : BitVec 2) (epc : Word) (s : State) : (enterTrap typ epc s).busErr = s.busErr := rfl
@[simp] theorem enterTrap_txEvt (typ : BitVec 2) (epc : Word) (s : State) : (enterTrap typ epc s).txEvt = s.txEvt := rfl
@[simp] theorem enterTrap_mem (typ : BitVec 2) (epc : Word) (s : State) : (enterTrap typ epc s).mem = s.mem := rfl
@[simp] theorem enterTrap_stale (typ : BitVec 2) (epc : Word) (s : State) : (enterTrap typ epc s).stale = s.stale := rfl
@[simp] theorem enterTrap_now (typ : BitVec 2) (epc : Word) (s : State) : (enterTrap typ epc s).now = s.now := rfl
@[simp] theorem enterTrap_future (typ : BitVec 2) (epc : Word) (s : State) : (enterTrap typ epc s).future = s.future := rfl
@[simp] theorem enterTrap_draws (typ : BitVec 2) (epc : Word) (s : State) : (enterTrap typ epc s).draws = s.draws := rfl

/-! ### setTrapCause -/

@[simp] theorem setTrapCause_cfg (c : BitVec 12) (s : State) : (setTrapCause c s).cfg = s.cfg := rfl
@[simp] theorem setTrapCause_x (c : BitVec 12) (s : State) : (setTrapCause c s).x = s.x := rfl
@[simp] theorem setTrapCause_pc (c : BitVec 12) (s : State) : (setTrapCause c s).pc = s.pc := rfl
@[simp] theorem setTrapCause_priv (c : BitVec 12) (s : State) : (setTrapCause c s).priv = s.priv := rfl
@[simp] theorem setTrapCause_timer (c : BitVec 12) (s : State) : (setTrapCause c s).timer = s.timer := rfl
@[simp] theorem setTrapCause_eclic (c : BitVec 12) (s : State) : (setTrapCause c s).eclic = s.eclic := rfl
@[simp] theorem setTrapCause_reservation (c : BitVec 12) (s : State) : (setTrapCause c s).reservation = s.reservation := rfl
@[simp] theorem setTrapCause_nmiPending (c : BitVec 12) (s : State) : (setTrapCause c s).nmiPending = s.nmiPending := rfl
@[simp] theorem setTrapCause_nmiPrev (c : BitVec 12) (s : State) : (setTrapCause c s).nmiPrev = s.nmiPrev := rfl
@[simp] theorem setTrapCause_sleeping (c : BitVec 12) (s : State) : (setTrapCause c s).sleeping = s.sleeping := rfl
@[simp] theorem setTrapCause_busErr (c : BitVec 12) (s : State) : (setTrapCause c s).busErr = s.busErr := rfl
@[simp] theorem setTrapCause_txEvt (c : BitVec 12) (s : State) : (setTrapCause c s).txEvt = s.txEvt := rfl
@[simp] theorem setTrapCause_mem (c : BitVec 12) (s : State) : (setTrapCause c s).mem = s.mem := rfl
@[simp] theorem setTrapCause_stale (c : BitVec 12) (s : State) : (setTrapCause c s).stale = s.stale := rfl
@[simp] theorem setTrapCause_now (c : BitVec 12) (s : State) : (setTrapCause c s).now = s.now := rfl
@[simp] theorem setTrapCause_future (c : BitVec 12) (s : State) : (setTrapCause c s).future = s.future := rfl
@[simp] theorem setTrapCause_draws (c : BitVec 12) (s : State) : (setTrapCause c s).draws = s.draws := rfl

/-! ### exceptionEntry -/

@[simp] theorem exceptionEntry_cfg (c : BitVec 12) (tval epc : Word) (s : State) : (exceptionEntry c tval epc s).cfg = s.cfg := rfl
@[simp] theorem exceptionEntry_x (c : BitVec 12) (tval epc : Word) (s : State) : (exceptionEntry c tval epc s).x = s.x := rfl
@[simp] theorem exceptionEntry_timer (c : BitVec 12) (tval epc : Word) (s : State) : (exceptionEntry c tval epc s).timer = s.timer := rfl
@[simp] theorem exceptionEntry_eclic (c : BitVec 12) (tval epc : Word) (s : State) : (exceptionEntry c tval epc s).eclic = s.eclic := rfl
@[simp] theorem exceptionEntry_nmiPending (c : BitVec 12) (tval epc : Word) (s : State) : (exceptionEntry c tval epc s).nmiPending = s.nmiPending := rfl
@[simp] theorem exceptionEntry_nmiPrev (c : BitVec 12) (tval epc : Word) (s : State) : (exceptionEntry c tval epc s).nmiPrev = s.nmiPrev := rfl
@[simp] theorem exceptionEntry_sleeping (c : BitVec 12) (tval epc : Word) (s : State) : (exceptionEntry c tval epc s).sleeping = s.sleeping := rfl
@[simp] theorem exceptionEntry_busErr (c : BitVec 12) (tval epc : Word) (s : State) : (exceptionEntry c tval epc s).busErr = s.busErr := rfl
@[simp] theorem exceptionEntry_txEvt (c : BitVec 12) (tval epc : Word) (s : State) : (exceptionEntry c tval epc s).txEvt = s.txEvt := rfl
@[simp] theorem exceptionEntry_mem (c : BitVec 12) (tval epc : Word) (s : State) : (exceptionEntry c tval epc s).mem = s.mem := rfl
@[simp] theorem exceptionEntry_stale (c : BitVec 12) (tval epc : Word) (s : State) : (exceptionEntry c tval epc s).stale = s.stale := rfl
@[simp] theorem exceptionEntry_now (c : BitVec 12) (tval epc : Word) (s : State) : (exceptionEntry c tval epc s).now = s.now := rfl
@[simp] theorem exceptionEntry_future (c : BitVec 12) (tval epc : Word) (s : State) : (exceptionEntry c tval epc s).future = s.future := rfl
@[simp] theorem exceptionEntry_draws (c : BitVec 12) (tval epc : Word) (s : State) : (exceptionEntry c tval epc s).draws = s.draws := rfl

/-! ### nmiEntry -/

@[simp] theorem nmiEntry_cfg (s : State) : (nmiEntry s).cfg = s.cfg := rfl
@[simp] theorem nmiEntry_x (s : State) : (nmiEntry s).x = s.x := rfl
@[simp] theorem nmiEntry_timer (s : State) : (nmiEntry s).timer = s.timer := rfl
@[simp] theorem nmiEntry_eclic (s : State) : (nmiEntry s).eclic = s.eclic := rfl
@[simp] theorem nmiEntry_nmiPrev (s : State) : (nmiEntry s).nmiPrev = s.nmiPrev := rfl
@[simp] theorem nmiEntry_sleeping (s : State) : (nmiEntry s).sleeping = s.sleeping := rfl
@[simp] theorem nmiEntry_busErr (s : State) : (nmiEntry s).busErr = s.busErr := rfl
@[simp] theorem nmiEntry_txEvt (s : State) : (nmiEntry s).txEvt = s.txEvt := rfl
@[simp] theorem nmiEntry_mem (s : State) : (nmiEntry s).mem = s.mem := rfl
@[simp] theorem nmiEntry_stale (s : State) : (nmiEntry s).stale = s.stale := rfl
@[simp] theorem nmiEntry_now (s : State) : (nmiEntry s).now = s.now := rfl
@[simp] theorem nmiEntry_future (s : State) : (nmiEntry s).future = s.future := rfl
@[simp] theorem nmiEntry_draws (s : State) : (nmiEntry s).draws = s.draws := rfl

/-! ### busErrorException -/

@[simp] theorem busErrorException_cfg (s : State) : (busErrorException s).cfg = s.cfg := rfl
@[simp] theorem busErrorException_x (s : State) : (busErrorException s).x = s.x := rfl
@[simp] theorem busErrorException_timer (s : State) : (busErrorException s).timer = s.timer := rfl
@[simp] theorem busErrorException_eclic (s : State) : (busErrorException s).eclic = s.eclic := rfl
@[simp] theorem busErrorException_nmiPending (s : State) : (busErrorException s).nmiPending = s.nmiPending := rfl
@[simp] theorem busErrorException_nmiPrev (s : State) : (busErrorException s).nmiPrev = s.nmiPrev := rfl
@[simp] theorem busErrorException_sleeping (s : State) : (busErrorException s).sleeping = s.sleeping := rfl
@[simp] theorem busErrorException_txEvt (s : State) : (busErrorException s).txEvt = s.txEvt := rfl
@[simp] theorem busErrorException_mem (s : State) : (busErrorException s).mem = s.mem := rfl
@[simp] theorem busErrorException_stale (s : State) : (busErrorException s).stale = s.stale := rfl
@[simp] theorem busErrorException_now (s : State) : (busErrorException s).now = s.now := rfl
@[simp] theorem busErrorException_future (s : State) : (busErrorException s).future = s.future := rfl
@[simp] theorem busErrorException_draws (s : State) : (busErrorException s).draws = s.draws := rfl

/-! ### claimSource -/

@[simp] theorem claimSource_cfg (i : Nat) (s : State) : (claimSource i s).cfg = s.cfg := rfl
@[simp] theorem claimSource_x (i : Nat) (s : State) : (claimSource i s).x = s.x := rfl
@[simp] theorem claimSource_pc (i : Nat) (s : State) : (claimSource i s).pc = s.pc := rfl
@[simp] theorem claimSource_priv (i : Nat) (s : State) : (claimSource i s).priv = s.priv := rfl
@[simp] theorem claimSource_csr (i : Nat) (s : State) : (claimSource i s).csr = s.csr := rfl
@[simp] theorem claimSource_timer (i : Nat) (s : State) : (claimSource i s).timer = s.timer := rfl
@[simp] theorem claimSource_reservation (i : Nat) (s : State) : (claimSource i s).reservation = s.reservation := rfl
@[simp] theorem claimSource_nmiPending (i : Nat) (s : State) : (claimSource i s).nmiPending = s.nmiPending := rfl
@[simp] theorem claimSource_nmiPrev (i : Nat) (s : State) : (claimSource i s).nmiPrev = s.nmiPrev := rfl
@[simp] theorem claimSource_sleeping (i : Nat) (s : State) : (claimSource i s).sleeping = s.sleeping := rfl
@[simp] theorem claimSource_txEvt (i : Nat) (s : State) : (claimSource i s).txEvt = s.txEvt := rfl
@[simp] theorem claimSource_mem (i : Nat) (s : State) : (claimSource i s).mem = s.mem := rfl
@[simp] theorem claimSource_stale (i : Nat) (s : State) : (claimSource i s).stale = s.stale := rfl
@[simp] theorem claimSource_now (i : Nat) (s : State) : (claimSource i s).now = s.now := rfl
@[simp] theorem claimSource_future (i : Nat) (s : State) : (claimSource i s).future = s.future := rfl
@[simp] theorem claimSource_draws (i : Nat) (s : State) : (claimSource i s).draws = s.draws := rfl

/-! ### interruptUpdates -/

@[simp] theorem interruptUpdates_cfg (r : Candidate) (s : State) : (interruptUpdates r s).cfg = s.cfg := rfl
@[simp] theorem interruptUpdates_x (r : Candidate) (s : State) : (interruptUpdates r s).x = s.x := rfl
@[simp] theorem interruptUpdates_pc (r : Candidate) (s : State) : (interruptUpdates r s).pc = s.pc := rfl
@[simp] theorem interruptUpdates_timer (r : Candidate) (s : State) : (interruptUpdates r s).timer = s.timer := rfl
@[simp] theorem interruptUpdates_eclic (r : Candidate) (s : State) : (interruptUpdates r s).eclic = s.eclic := rfl
@[simp] theorem interruptUpdates_nmiPending (r : Candidate) (s : State) : (interruptUpdates r s).nmiPending = s.nmiPending := rfl
@[simp] theorem interruptUpdates_nmiPrev (r : Candidate) (s : State) : (interruptUpdates r s).nmiPrev = s.nmiPrev := rfl
@[simp] theorem interruptUpdates_sleeping (r : Candidate) (s : State) : (interruptUpdates r s).sleeping = s.sleeping := rfl
@[simp] theorem interruptUpdates_busErr (r : Candidate) (s : State) : (interruptUpdates r s).busErr = s.busErr := rfl
@[simp] theorem interruptUpdates_txEvt (r : Candidate) (s : State) : (interruptUpdates r s).txEvt = s.txEvt := rfl
@[simp] theorem interruptUpdates_mem (r : Candidate) (s : State) : (interruptUpdates r s).mem = s.mem := rfl
@[simp] theorem interruptUpdates_stale (r : Candidate) (s : State) : (interruptUpdates r s).stale = s.stale := rfl
@[simp] theorem interruptUpdates_now (r : Candidate) (s : State) : (interruptUpdates r s).now = s.now := rfl
@[simp] theorem interruptUpdates_future (r : Candidate) (s : State) : (interruptUpdates r s).future = s.future := rfl
@[simp] theorem interruptUpdates_draws (r : Candidate) (s : State) : (interruptUpdates r s).draws = s.draws := rfl

/-! ### setMinhv -/

@[simp] theorem setMinhv_cfg (b : Bool) (s : State) : (setMinhv b s).cfg = s.cfg := rfl
@[simp] theorem setMinhv_x (b : Bool) (s : State) : (setMinhv b s).x = s.x := rfl
@[simp] theorem setMinhv_pc (b : Bool) (s : State) : (setMinhv b s).pc = s.pc := rfl
@[simp] theorem setMinhv_priv (b : Bool) (s : State) : (setMinhv b s).priv = s.priv := rfl
@[simp] theorem setMinhv_timer (b : Bool) (s : State) : (setMinhv b s).timer = s.timer := rfl
@[simp] theorem setMinhv_eclic (b : Bool) (s : State) : (setMinhv b s).eclic = s.eclic := rfl
@[simp] theorem setMinhv_reservation (b : Bool) (s : State) : (setMinhv b s).reservation = s.reservation := rfl
@[simp] theorem setMinhv_nmiPending (b : Bool) (s : State) : (setMinhv b s).nmiPending = s.nmiPending := rfl
@[simp] theorem setMinhv_nmiPrev (b : Bool) (s : State) : (setMinhv b s).nmiPrev = s.nmiPrev := rfl
@[simp] theorem setMinhv_sleeping (b : Bool) (s : State) : (setMinhv b s).sleeping = s.sleeping := rfl
@[simp] theorem setMinhv_busErr (b : Bool) (s : State) : (setMinhv b s).busErr = s.busErr := rfl
@[simp] theorem setMinhv_txEvt (b : Bool) (s : State) : (setMinhv b s).txEvt = s.txEvt := rfl
@[simp] theorem setMinhv_mem (b : Bool) (s : State) : (setMinhv b s).mem = s.mem := rfl
@[simp] theorem setMinhv_stale (b : Bool) (s : State) : (setMinhv b s).stale = s.stale := rfl
@[simp] theorem setMinhv_now (b : Bool) (s : State) : (setMinhv b s).now = s.now := rfl
@[simp] theorem setMinhv_future (b : Bool) (s : State) : (setMinhv b s).future = s.future := rfl
@[simp] theorem setMinhv_draws (b : Bool) (s : State) : (setMinhv b s).draws = s.draws := rfl

/-! ### mretPop -/

@[simp] theorem mretPop_cfg (s : State) : (mretPop s).cfg = s.cfg := rfl
@[simp] theorem mretPop_x (s : State) : (mretPop s).x = s.x := rfl
@[simp] theorem mretPop_pc (s : State) : (mretPop s).pc = s.pc := rfl
@[simp] theorem mretPop_priv (s : State) : (mretPop s).priv = s.priv := rfl
@[simp] theorem mretPop_timer (s : State) : (mretPop s).timer = s.timer := rfl
@[simp] theorem mretPop_eclic (s : State) : (mretPop s).eclic = s.eclic := rfl
@[simp] theorem mretPop_reservation (s : State) : (mretPop s).reservation = s.reservation := rfl
@[simp] theorem mretPop_nmiPending (s : State) : (mretPop s).nmiPending = s.nmiPending := rfl
@[simp] theorem mretPop_nmiPrev (s : State) : (mretPop s).nmiPrev = s.nmiPrev := rfl
@[simp] theorem mretPop_sleeping (s : State) : (mretPop s).sleeping = s.sleeping := rfl
@[simp] theorem mretPop_busErr (s : State) : (mretPop s).busErr = s.busErr := rfl
@[simp] theorem mretPop_txEvt (s : State) : (mretPop s).txEvt = s.txEvt := rfl
@[simp] theorem mretPop_mem (s : State) : (mretPop s).mem = s.mem := rfl
@[simp] theorem mretPop_stale (s : State) : (mretPop s).stale = s.stale := rfl
@[simp] theorem mretPop_now (s : State) : (mretPop s).now = s.now := rfl
@[simp] theorem mretPop_future (s : State) : (mretPop s).future = s.future := rfl
@[simp] theorem mretPop_draws (s : State) : (mretPop s).draws = s.draws := rfl

/-! ### mretInterrupt -/

@[simp] theorem mretInterrupt_cfg (s : State) : (mretInterrupt s).cfg = s.cfg := rfl
@[simp] theorem mretInterrupt_x (s : State) : (mretInterrupt s).x = s.x := rfl
@[simp] theorem mretInterrupt_pc (s : State) : (mretInterrupt s).pc = s.pc := rfl
@[simp] theorem mretInterrupt_priv (s : State) : (mretInterrupt s).priv = s.priv := rfl
@[simp] theorem mretInterrupt_timer (s : State) : (mretInterrupt s).timer = s.timer := rfl
@[simp] theorem mretInterrupt_eclic (s : State) : (mretInterrupt s).eclic = s.eclic := rfl
@[simp] theorem mretInterrupt_reservation (s : State) : (mretInterrupt s).reservation = s.reservation := rfl
@[simp] theorem mretInterrupt_nmiPending (s : State) : (mretInterrupt s).nmiPending = s.nmiPending := rfl
@[simp] theorem mretInterrupt_nmiPrev (s : State) : (mretInterrupt s).nmiPrev = s.nmiPrev := rfl
@[simp] theorem mretInterrupt_sleeping (s : State) : (mretInterrupt s).sleeping = s.sleeping := rfl
@[simp] theorem mretInterrupt_busErr (s : State) : (mretInterrupt s).busErr = s.busErr := rfl
@[simp] theorem mretInterrupt_txEvt (s : State) : (mretInterrupt s).txEvt = s.txEvt := rfl
@[simp] theorem mretInterrupt_mem (s : State) : (mretInterrupt s).mem = s.mem := rfl
@[simp] theorem mretInterrupt_stale (s : State) : (mretInterrupt s).stale = s.stale := rfl
@[simp] theorem mretInterrupt_now (s : State) : (mretInterrupt s).now = s.now := rfl
@[simp] theorem mretInterrupt_future (s : State) : (mretInterrupt s).future = s.future := rfl
@[simp] theorem mretInterrupt_draws (s : State) : (mretInterrupt s).draws = s.draws := rfl

/-! ### returnFromTrap -/

@[simp] theorem returnFromTrap_cfg (s : State) : (returnFromTrap s).cfg = s.cfg := by
  unfold returnFromTrap; split <;> rfl
@[simp] theorem returnFromTrap_x (s : State) : (returnFromTrap s).x = s.x := by
  unfold returnFromTrap; split <;> rfl
@[simp] theorem returnFromTrap_timer (s : State) : (returnFromTrap s).timer = s.timer := by
  unfold returnFromTrap; split <;> rfl
@[simp] theorem returnFromTrap_eclic (s : State) : (returnFromTrap s).eclic = s.eclic := by
  unfold returnFromTrap; split <;> rfl
@[simp] theorem returnFromTrap_nmiPending (s : State) : (returnFromTrap s).nmiPending = s.nmiPending := by
  unfold returnFromTrap; split <;> rfl
@[simp] theorem returnFromTrap_nmiPrev (s : State) : (returnFromTrap s).nmiPrev = s.nmiPrev := by
  unfold returnFromTrap; split <;> rfl
@[simp] theorem returnFromTrap_sleeping (s : State) : (returnFromTrap s).sleeping = s.sleeping := by
  unfold returnFromTrap; split <;> rfl
@[simp] theorem returnFromTrap_busErr (s : State) : (returnFromTrap s).busErr = s.busErr := by
  unfold returnFromTrap; split <;> rfl
@[simp] theorem returnFromTrap_txEvt (s : State) : (returnFromTrap s).txEvt = s.txEvt := by
  unfold returnFromTrap; split <;> rfl
@[simp] theorem returnFromTrap_mem (s : State) : (returnFromTrap s).mem = s.mem := by
  unfold returnFromTrap; split <;> rfl
@[simp] theorem returnFromTrap_stale (s : State) : (returnFromTrap s).stale = s.stale := by
  unfold returnFromTrap; split <;> rfl
@[simp] theorem returnFromTrap_now (s : State) : (returnFromTrap s).now = s.now := by
  unfold returnFromTrap; split <;> rfl
@[simp] theorem returnFromTrap_future (s : State) : (returnFromTrap s).future = s.future := by
  unfold returnFromTrap; split <;> rfl
@[simp] theorem returnFromTrap_draws (s : State) : (returnFromTrap s).draws = s.draws := by
  unfold returnFromTrap; split <;> rfl

/-! ### csrWrite -/

@[simp] theorem csrWrite_cfg (r : CsrReg) (v : Word) (s : State) : (csrWrite r v s).cfg = s.cfg := rfl
@[simp] theorem csrWrite_x (r : CsrReg) (v : Word) (s : State) : (csrWrite r v s).x = s.x := rfl
@[simp] theorem csrWrite_pc (r : CsrReg) (v : Word) (s : State) : (csrWrite r v s).pc = s.pc := rfl
@[simp] theorem csrWrite_priv (r : CsrReg) (v : Word) (s : State) : (csrWrite r v s).priv = s.priv := rfl
@[simp] theorem csrWrite_timer (r : CsrReg) (v : Word) (s : State) : (csrWrite r v s).timer = s.timer := rfl
@[simp] theorem csrWrite_eclic (r : CsrReg) (v : Word) (s : State) : (csrWrite r v s).eclic = s.eclic := rfl
@[simp] theorem csrWrite_reservation (r : CsrReg) (v : Word) (s : State) : (csrWrite r v s).reservation = s.reservation := rfl
@[simp] theorem csrWrite_nmiPending (r : CsrReg) (v : Word) (s : State) : (csrWrite r v s).nmiPending = s.nmiPending := rfl
@[simp] theorem csrWrite_nmiPrev (r : CsrReg) (v : Word) (s : State) : (csrWrite r v s).nmiPrev = s.nmiPrev := rfl
@[simp] theorem csrWrite_sleeping (r : CsrReg) (v : Word) (s : State) : (csrWrite r v s).sleeping = s.sleeping := rfl
@[simp] theorem csrWrite_busErr (r : CsrReg) (v : Word) (s : State) : (csrWrite r v s).busErr = s.busErr := rfl
@[simp] theorem csrWrite_mem (r : CsrReg) (v : Word) (s : State) : (csrWrite r v s).mem = s.mem := rfl
@[simp] theorem csrWrite_stale (r : CsrReg) (v : Word) (s : State) : (csrWrite r v s).stale = s.stale := rfl
@[simp] theorem csrWrite_now (r : CsrReg) (v : Word) (s : State) : (csrWrite r v s).now = s.now := rfl
@[simp] theorem csrWrite_future (r : CsrReg) (v : Word) (s : State) : (csrWrite r v s).future = s.future := rfl

/-! ### setMie -/

@[simp] theorem setMie_cfg (s : State) : (setMie s).cfg = s.cfg := rfl
@[simp] theorem setMie_x (s : State) : (setMie s).x = s.x := rfl
@[simp] theorem setMie_pc (s : State) : (setMie s).pc = s.pc := rfl
@[simp] theorem setMie_priv (s : State) : (setMie s).priv = s.priv := rfl
@[simp] theorem setMie_timer (s : State) : (setMie s).timer = s.timer := rfl
@[simp] theorem setMie_eclic (s : State) : (setMie s).eclic = s.eclic := rfl
@[simp] theorem setMie_reservation (s : State) : (setMie s).reservation = s.reservation := rfl
@[simp] theorem setMie_nmiPending (s : State) : (setMie s).nmiPending = s.nmiPending := rfl
@[simp] theorem setMie_nmiPrev (s : State) : (setMie s).nmiPrev = s.nmiPrev := rfl
@[simp] theorem setMie_sleeping (s : State) : (setMie s).sleeping = s.sleeping := rfl
@[simp] theorem setMie_busErr (s : State) : (setMie s).busErr = s.busErr := rfl
@[simp] theorem setMie_txEvt (s : State) : (setMie s).txEvt = s.txEvt := rfl
@[simp] theorem setMie_mem (s : State) : (setMie s).mem = s.mem := rfl
@[simp] theorem setMie_stale (s : State) : (setMie s).stale = s.stale := rfl
@[simp] theorem setMie_now (s : State) : (setMie s).now = s.now := rfl
@[simp] theorem setMie_future (s : State) : (setMie s).future = s.future := rfl
@[simp] theorem setMie_draws (s : State) : (setMie s).draws = s.draws := rfl

/-! ### claimInterrupt -/

@[simp] theorem claimInterrupt_cfg (r : Candidate) (s : State) : (claimInterrupt r s).cfg = s.cfg := rfl
@[simp] theorem claimInterrupt_x (r : Candidate) (s : State) : (claimInterrupt r s).x = s.x := rfl
@[simp] theorem claimInterrupt_pc (r : Candidate) (s : State) : (claimInterrupt r s).pc = s.pc := rfl
@[simp] theorem claimInterrupt_priv (r : Candidate) (s : State) : (claimInterrupt r s).priv = s.priv := rfl
@[simp] theorem claimInterrupt_timer (r : Candidate) (s : State) : (claimInterrupt r s).timer = s.timer := rfl
@[simp] theorem claimInterrupt_reservation (r : Candidate) (s : State) : (claimInterrupt r s).reservation = s.reservation := rfl
@[simp] theorem claimInterrupt_nmiPending (r : Candidate) (s : State) : (claimInterrupt r s).nmiPending = s.nmiPending := rfl
@[simp] theorem claimInterrupt_nmiPrev (r : Candidate) (s : State) : (claimInterrupt r s).nmiPrev = s.nmiPrev := rfl
@[simp] theorem claimInterrupt_sleeping (r : Candidate) (s : State) : (claimInterrupt r s).sleeping = s.sleeping := rfl
@[simp] theorem claimInterrupt_txEvt (r : Candidate) (s : State) : (claimInterrupt r s).txEvt = s.txEvt := rfl
@[simp] theorem claimInterrupt_mem (r : Candidate) (s : State) : (claimInterrupt r s).mem = s.mem := rfl
@[simp] theorem claimInterrupt_stale (r : Candidate) (s : State) : (claimInterrupt r s).stale = s.stale := rfl
@[simp] theorem claimInterrupt_now (r : Candidate) (s : State) : (claimInterrupt r s).now = s.now := rfl
@[simp] theorem claimInterrupt_future (r : Candidate) (s : State) : (claimInterrupt r s).future = s.future := rfl
@[simp] theorem claimInterrupt_draws (r : Candidate) (s : State) : (claimInterrupt r s).draws = s.draws := rfl

/-! ### pushResult -/

@[simp] theorem pushResult_cfg (rd : Reg) (s : State) : (pushResult rd s).cfg = s.cfg := by
  unfold pushResult setReg; (repeat' split) <;> rfl
@[simp] theorem pushResult_pc (rd : Reg) (s : State) : (pushResult rd s).pc = s.pc := by
  unfold pushResult setReg; (repeat' split) <;> rfl
@[simp] theorem pushResult_priv (rd : Reg) (s : State) : (pushResult rd s).priv = s.priv := by
  unfold pushResult setReg; (repeat' split) <;> rfl
@[simp] theorem pushResult_csr (rd : Reg) (s : State) : (pushResult rd s).csr = s.csr := by
  unfold pushResult setReg; (repeat' split) <;> rfl
@[simp] theorem pushResult_timer (rd : Reg) (s : State) : (pushResult rd s).timer = s.timer := by
  unfold pushResult setReg; (repeat' split) <;> rfl
@[simp] theorem pushResult_eclic (rd : Reg) (s : State) : (pushResult rd s).eclic = s.eclic := by
  unfold pushResult setReg; (repeat' split) <;> rfl
@[simp] theorem pushResult_reservation (rd : Reg) (s : State) : (pushResult rd s).reservation = s.reservation := by
  unfold pushResult setReg; (repeat' split) <;> rfl
@[simp] theorem pushResult_nmiPending (rd : Reg) (s : State) : (pushResult rd s).nmiPending = s.nmiPending := by
  unfold pushResult setReg; (repeat' split) <;> rfl
@[simp] theorem pushResult_nmiPrev (rd : Reg) (s : State) : (pushResult rd s).nmiPrev = s.nmiPrev := by
  unfold pushResult setReg; (repeat' split) <;> rfl
@[simp] theorem pushResult_sleeping (rd : Reg) (s : State) : (pushResult rd s).sleeping = s.sleeping := by
  unfold pushResult setReg; (repeat' split) <;> rfl
@[simp] theorem pushResult_busErr (rd : Reg) (s : State) : (pushResult rd s).busErr = s.busErr := by
  unfold pushResult setReg; (repeat' split) <;> rfl
@[simp] theorem pushResult_txEvt (rd : Reg) (s : State) : (pushResult rd s).txEvt = s.txEvt := by
  unfold pushResult setReg; (repeat' split) <;> rfl
@[simp] theorem pushResult_mem (rd : Reg) (s : State) : (pushResult rd s).mem = s.mem := by
  unfold pushResult setReg; (repeat' split) <;> rfl
@[simp] theorem pushResult_stale (rd : Reg) (s : State) : (pushResult rd s).stale = s.stale := by
  unfold pushResult setReg; (repeat' split) <;> rfl
@[simp] theorem pushResult_now (rd : Reg) (s : State) : (pushResult rd s).now = s.now := by
  unfold pushResult setReg; (repeat' split) <;> rfl
@[simp] theorem pushResult_future (rd : Reg) (s : State) : (pushResult rd s).future = s.future := by
  unfold pushResult setReg; (repeat' split) <;> rfl

/-! ### mnxtiStatus -/

@[simp] theorem mnxtiStatus_cfg (fn : CsrFn) (src : CsrSrc) (s : State) : (mnxtiStatus fn src s).cfg = s.cfg := by
  unfold mnxtiStatus; (repeat' split) <;> rfl
@[simp] theorem mnxtiStatus_x (fn : CsrFn) (src : CsrSrc) (s : State) : (mnxtiStatus fn src s).x = s.x := by
  unfold mnxtiStatus; (repeat' split) <;> rfl
@[simp] theorem mnxtiStatus_pc (fn : CsrFn) (src : CsrSrc) (s : State) : (mnxtiStatus fn src s).pc = s.pc := by
  unfold mnxtiStatus; (repeat' split) <;> rfl
@[simp] theorem mnxtiStatus_priv (fn : CsrFn) (src : CsrSrc) (s : State) : (mnxtiStatus fn src s).priv = s.priv := by
  unfold mnxtiStatus; (repeat' split) <;> rfl
@[simp] theorem mnxtiStatus_timer (fn : CsrFn) (src : CsrSrc) (s : State) : (mnxtiStatus fn src s).timer = s.timer := by
  unfold mnxtiStatus; (repeat' split) <;> rfl
@[simp] theorem mnxtiStatus_eclic (fn : CsrFn) (src : CsrSrc) (s : State) : (mnxtiStatus fn src s).eclic = s.eclic := by
  unfold mnxtiStatus; (repeat' split) <;> rfl
@[simp] theorem mnxtiStatus_reservation (fn : CsrFn) (src : CsrSrc) (s : State) : (mnxtiStatus fn src s).reservation = s.reservation := by
  unfold mnxtiStatus; (repeat' split) <;> rfl
@[simp] theorem mnxtiStatus_nmiPending (fn : CsrFn) (src : CsrSrc) (s : State) : (mnxtiStatus fn src s).nmiPending = s.nmiPending := by
  unfold mnxtiStatus; (repeat' split) <;> rfl
@[simp] theorem mnxtiStatus_nmiPrev (fn : CsrFn) (src : CsrSrc) (s : State) : (mnxtiStatus fn src s).nmiPrev = s.nmiPrev := by
  unfold mnxtiStatus; (repeat' split) <;> rfl
@[simp] theorem mnxtiStatus_sleeping (fn : CsrFn) (src : CsrSrc) (s : State) : (mnxtiStatus fn src s).sleeping = s.sleeping := by
  unfold mnxtiStatus; (repeat' split) <;> rfl
@[simp] theorem mnxtiStatus_busErr (fn : CsrFn) (src : CsrSrc) (s : State) : (mnxtiStatus fn src s).busErr = s.busErr := by
  unfold mnxtiStatus; (repeat' split) <;> rfl
@[simp] theorem mnxtiStatus_mem (fn : CsrFn) (src : CsrSrc) (s : State) : (mnxtiStatus fn src s).mem = s.mem := by
  unfold mnxtiStatus; (repeat' split) <;> rfl
@[simp] theorem mnxtiStatus_stale (fn : CsrFn) (src : CsrSrc) (s : State) : (mnxtiStatus fn src s).stale = s.stale := by
  unfold mnxtiStatus; (repeat' split) <;> rfl
@[simp] theorem mnxtiStatus_now (fn : CsrFn) (src : CsrSrc) (s : State) : (mnxtiStatus fn src s).now = s.now := by
  unfold mnxtiStatus; (repeat' split) <;> rfl
@[simp] theorem mnxtiStatus_future (fn : CsrFn) (src : CsrSrc) (s : State) : (mnxtiStatus fn src s).future = s.future := by
  unfold mnxtiStatus; (repeat' split) <;> rfl

/-! ### takeInputs -/

@[simp] theorem takeInputs_cfg (s : State) : (takeInputs s).cfg = s.cfg := by
  unfold takeInputs; (repeat' split) <;> rfl
@[simp] theorem takeInputs_x (s : State) : (takeInputs s).x = s.x := by
  unfold takeInputs; (repeat' split) <;> rfl
@[simp] theorem takeInputs_pc (s : State) : (takeInputs s).pc = s.pc := by
  unfold takeInputs; (repeat' split) <;> rfl
@[simp] theorem takeInputs_priv (s : State) : (takeInputs s).priv = s.priv := by
  unfold takeInputs; (repeat' split) <;> rfl
@[simp] theorem takeInputs_csr (s : State) : (takeInputs s).csr = s.csr := by
  unfold takeInputs; (repeat' split) <;> rfl
@[simp] theorem takeInputs_timer (s : State) : (takeInputs s).timer = s.timer := by
  unfold takeInputs; (repeat' split) <;> rfl
@[simp] theorem takeInputs_eclic (s : State) : (takeInputs s).eclic = s.eclic := by
  unfold takeInputs; (repeat' split) <;> rfl
@[simp] theorem takeInputs_reservation (s : State) : (takeInputs s).reservation = s.reservation := by
  unfold takeInputs; (repeat' split) <;> rfl
@[simp] theorem takeInputs_nmiPending (s : State) : (takeInputs s).nmiPending = s.nmiPending := by
  unfold takeInputs; (repeat' split) <;> rfl
@[simp] theorem takeInputs_nmiPrev (s : State) : (takeInputs s).nmiPrev = s.nmiPrev := by
  unfold takeInputs; (repeat' split) <;> rfl
@[simp] theorem takeInputs_sleeping (s : State) : (takeInputs s).sleeping = s.sleeping := by
  unfold takeInputs; (repeat' split) <;> rfl
@[simp] theorem takeInputs_busErr (s : State) : (takeInputs s).busErr = s.busErr := by
  unfold takeInputs; (repeat' split) <;> rfl
@[simp] theorem takeInputs_mem (s : State) : (takeInputs s).mem = s.mem := by
  unfold takeInputs; (repeat' split) <;> rfl
@[simp] theorem takeInputs_stale (s : State) : (takeInputs s).stale = s.stale := by
  unfold takeInputs; (repeat' split) <;> rfl
@[simp] theorem takeInputs_draws (s : State) : (takeInputs s).draws = s.draws := by
  unfold takeInputs; (repeat' split) <;> rfl

/-! ### advanceCycles -/

@[simp] theorem advanceCycles_cfg (s : State) : (advanceCycles s).cfg = s.cfg := by
  unfold advanceCycles; (repeat' split) <;> rfl
@[simp] theorem advanceCycles_x (s : State) : (advanceCycles s).x = s.x := by
  unfold advanceCycles; (repeat' split) <;> rfl
@[simp] theorem advanceCycles_pc (s : State) : (advanceCycles s).pc = s.pc := by
  unfold advanceCycles; (repeat' split) <;> rfl
@[simp] theorem advanceCycles_priv (s : State) : (advanceCycles s).priv = s.priv := by
  unfold advanceCycles; (repeat' split) <;> rfl
@[simp] theorem advanceCycles_timer (s : State) : (advanceCycles s).timer = s.timer := by
  unfold advanceCycles; (repeat' split) <;> rfl
@[simp] theorem advanceCycles_eclic (s : State) : (advanceCycles s).eclic = s.eclic := by
  unfold advanceCycles; (repeat' split) <;> rfl
@[simp] theorem advanceCycles_reservation (s : State) : (advanceCycles s).reservation = s.reservation := by
  unfold advanceCycles; (repeat' split) <;> rfl
@[simp] theorem advanceCycles_nmiPending (s : State) : (advanceCycles s).nmiPending = s.nmiPending := by
  unfold advanceCycles; (repeat' split) <;> rfl
@[simp] theorem advanceCycles_nmiPrev (s : State) : (advanceCycles s).nmiPrev = s.nmiPrev := by
  unfold advanceCycles; (repeat' split) <;> rfl
@[simp] theorem advanceCycles_sleeping (s : State) : (advanceCycles s).sleeping = s.sleeping := by
  unfold advanceCycles; (repeat' split) <;> rfl
@[simp] theorem advanceCycles_busErr (s : State) : (advanceCycles s).busErr = s.busErr := by
  unfold advanceCycles; (repeat' split) <;> rfl
@[simp] theorem advanceCycles_txEvt (s : State) : (advanceCycles s).txEvt = s.txEvt := by
  unfold advanceCycles; (repeat' split) <;> rfl
@[simp] theorem advanceCycles_mem (s : State) : (advanceCycles s).mem = s.mem := by
  unfold advanceCycles; (repeat' split) <;> rfl
@[simp] theorem advanceCycles_stale (s : State) : (advanceCycles s).stale = s.stale := by
  unfold advanceCycles; (repeat' split) <;> rfl
@[simp] theorem advanceCycles_now (s : State) : (advanceCycles s).now = s.now := by
  unfold advanceCycles; (repeat' split) <;> rfl
@[simp] theorem advanceCycles_future (s : State) : (advanceCycles s).future = s.future := by
  unfold advanceCycles; (repeat' split) <;> rfl

/-! ### sampleNmi -/

@[simp] theorem sampleNmi_cfg (s : State) : (sampleNmi s).cfg = s.cfg := rfl
@[simp] theorem sampleNmi_x (s : State) : (sampleNmi s).x = s.x := rfl
@[simp] theorem sampleNmi_pc (s : State) : (sampleNmi s).pc = s.pc := rfl
@[simp] theorem sampleNmi_priv (s : State) : (sampleNmi s).priv = s.priv := rfl
@[simp] theorem sampleNmi_csr (s : State) : (sampleNmi s).csr = s.csr := rfl
@[simp] theorem sampleNmi_timer (s : State) : (sampleNmi s).timer = s.timer := rfl
@[simp] theorem sampleNmi_eclic (s : State) : (sampleNmi s).eclic = s.eclic := rfl
@[simp] theorem sampleNmi_reservation (s : State) : (sampleNmi s).reservation = s.reservation := rfl
@[simp] theorem sampleNmi_sleeping (s : State) : (sampleNmi s).sleeping = s.sleeping := rfl
@[simp] theorem sampleNmi_busErr (s : State) : (sampleNmi s).busErr = s.busErr := rfl
@[simp] theorem sampleNmi_txEvt (s : State) : (sampleNmi s).txEvt = s.txEvt := rfl
@[simp] theorem sampleNmi_mem (s : State) : (sampleNmi s).mem = s.mem := rfl
@[simp] theorem sampleNmi_stale (s : State) : (sampleNmi s).stale = s.stale := rfl
@[simp] theorem sampleNmi_now (s : State) : (sampleNmi s).now = s.now := rfl
@[simp] theorem sampleNmi_future (s : State) : (sampleNmi s).future = s.future := rfl
@[simp] theorem sampleNmi_draws (s : State) : (sampleNmi s).draws = s.draws := rfl

/-! ### sampleLines -/

@[simp] theorem sampleLines_cfg (s : State) : (sampleLines s).cfg = s.cfg := rfl
@[simp] theorem sampleLines_x (s : State) : (sampleLines s).x = s.x := rfl
@[simp] theorem sampleLines_pc (s : State) : (sampleLines s).pc = s.pc := rfl
@[simp] theorem sampleLines_priv (s : State) : (sampleLines s).priv = s.priv := rfl
@[simp] theorem sampleLines_csr (s : State) : (sampleLines s).csr = s.csr := rfl
@[simp] theorem sampleLines_timer (s : State) : (sampleLines s).timer = s.timer := rfl
@[simp] theorem sampleLines_reservation (s : State) : (sampleLines s).reservation = s.reservation := rfl
@[simp] theorem sampleLines_nmiPending (s : State) : (sampleLines s).nmiPending = s.nmiPending := rfl
@[simp] theorem sampleLines_nmiPrev (s : State) : (sampleLines s).nmiPrev = s.nmiPrev := rfl
@[simp] theorem sampleLines_sleeping (s : State) : (sampleLines s).sleeping = s.sleeping := rfl
@[simp] theorem sampleLines_busErr (s : State) : (sampleLines s).busErr = s.busErr := rfl
@[simp] theorem sampleLines_txEvt (s : State) : (sampleLines s).txEvt = s.txEvt := rfl
@[simp] theorem sampleLines_mem (s : State) : (sampleLines s).mem = s.mem := rfl
@[simp] theorem sampleLines_stale (s : State) : (sampleLines s).stale = s.stale := rfl
@[simp] theorem sampleLines_now (s : State) : (sampleLines s).now = s.now := rfl
@[simp] theorem sampleLines_future (s : State) : (sampleLines s).future = s.future := rfl
@[simp] theorem sampleLines_draws (s : State) : (sampleLines s).draws = s.draws := rfl

end Sys2Proof.Machine
end

