-- ==== Sys2Proof/Laws/Memory.lean ====
section
/-! SUPPORT. Laws of memory: a read after a write, the canonical form kept by every memory operation, and equality of
memories in canonical form that read alike. -/

namespace Sys2Proof.Machine

/-! ## Reading -/

@[simp] theorem Memory.read_nil (a : Nat) : Memory.read [] a = unlistedByte := rfl

theorem Memory.wfFrom_mono {m : Memory} {lo lo' : Nat} (h : Memory.wfFrom lo m = true) (hl : lo' ≤ lo) :
    Memory.wfFrom lo' m = true := by
  cases m with
  | nil => rfl
  | cons c m =>
    obtain ⟨k, b⟩ := c
    simp only [Memory.wfFrom, Bool.and_eq_true, decide_eq_true_eq] at h ⊢
    exact ⟨⟨⟨by omega, h.1.1.2⟩, h.1.2⟩, h.2⟩

/-- Below the first listed address every byte reads as an unlisted one. -/
theorem Memory.read_below {m : Memory} {lo a : Nat} (h : Memory.wfFrom lo m = true) (ha : a < lo) :
    m.read a = unlistedByte := by
  induction m generalizing lo with
  | nil => rfl
  | cons c m ih =>
    obtain ⟨k, b⟩ := c
    simp only [Memory.wfFrom, Bool.and_eq_true, decide_eq_true_eq] at h
    rw [Memory.read, if_neg (by omega)]
    exact ih h.2 (by omega)

/-- A read after a write: the byte written at its address, the old byte elsewhere. -/
theorem Memory.read_write_from {m : Memory} {lo : Nat} (h : Memory.wfFrom lo m = true) (a : Nat) (b : Byte) (c : Nat) :
    (m.write a b).read c = if c = a then b else m.read c := by
  induction m generalizing lo with
  | nil =>
    unfold Memory.write
    split
    · next hb => split <;> simp [hb]
    · by_cases hc : c = a
      · subst hc; simp [Memory.read]
      · simp [Memory.read, hc, Ne.symm hc]
  | cons d m ih =>
    obtain ⟨k, e⟩ := d
    simp only [Memory.wfFrom, Bool.and_eq_true, decide_eq_true_eq] at h
    unfold Memory.write
    by_cases hak : a < k
    · rw [if_pos hak]
      by_cases hb : b = unlistedByte
      · rw [if_pos hb]
        by_cases hc : c = a
        · subst hc
          rw [if_pos rfl, Memory.read, if_neg (by omega), hb]
          exact Memory.read_below h.2 (by omega)
        · rw [if_neg hc]
      · rw [if_neg hb, Memory.read]
        by_cases hc : a = c
        · rw [if_pos hc, if_pos hc.symm]
        · rw [if_neg hc, if_neg (Ne.symm hc)]
    · rw [if_neg hak]
      by_cases hk : a = k
      · subst hk
        rw [if_pos rfl]
        by_cases hb : b = unlistedByte
        · rw [if_pos hb]
          by_cases hc : c = a
          · subst hc
            rw [if_pos rfl, hb]
            exact Memory.read_below h.2 (by omega)
          · rw [if_neg hc, Memory.read, if_neg (Ne.symm hc)]
        · rw [if_neg hb]
          by_cases hc : c = a
          · subst hc; simp [Memory.read]
          · simp [Memory.read, hc, Ne.symm hc]
      · rw [if_neg hk, Memory.read, Memory.read, ih h.2]
        by_cases hc : k = c
        · rw [if_pos hc, if_pos hc, if_neg (by omega)]
        · rw [if_neg hc, if_neg hc]

/-- A read after a write. -/
theorem Memory.read_write {m : Memory} (h : m.wf = true) (a : Nat) (b : Byte) (c : Nat) :
    (m.write a b).read c = if c = a then b else m.read c :=
  Memory.read_write_from h a b c

/-! ## The canonical form -/

theorem Memory.write_wfFrom {m : Memory} {lo a : Nat} (h : Memory.wfFrom lo m = true) (hlo : lo ≤ a)
    (ha : a < 2 ^ 32) (b : Byte) : Memory.wfFrom lo (m.write a b) = true := by
  induction m generalizing lo with
  | nil =>
    unfold Memory.write
    split
    · rfl
    · next hb =>
      simp only [Memory.wfFrom, Bool.and_eq_true, decide_eq_true_eq, bne_iff_ne, Bool.and_true]
      exact ⟨⟨hlo, ha⟩, hb⟩
  | cons d m ih =>
    obtain ⟨k, e⟩ := d
    have h0 := h
    simp only [Memory.wfFrom, Bool.and_eq_true, decide_eq_true_eq] at h
    unfold Memory.write
    by_cases hak : a < k
    · rw [if_pos hak]
      by_cases hb : b = unlistedByte
      · rw [if_pos hb]; exact h0
      · rw [if_neg hb]
        simp only [Memory.wfFrom, Bool.and_eq_true, decide_eq_true_eq, bne_iff_ne] at h ⊢
        exact ⟨⟨⟨hlo, ha⟩, hb⟩, ⟨⟨by omega, h.1.1.2⟩, h.1.2⟩, h.2⟩
    · rw [if_neg hak]
      by_cases hk : a = k
      · subst hk
        rw [if_pos rfl]
        by_cases hb : b = unlistedByte
        · rw [if_pos hb]; exact Memory.wfFrom_mono h.2 (by omega)
        · rw [if_neg hb]
          simp only [Memory.wfFrom, Bool.and_eq_true, decide_eq_true_eq, bne_iff_ne]
          exact ⟨⟨⟨hlo, ha⟩, hb⟩, h.2⟩
      · rw [if_neg hk]
        simp only [Memory.wfFrom, Bool.and_eq_true, decide_eq_true_eq]
        exact ⟨h.1, ih h.2 (by omega)⟩

/-- A write keeps the canonical form. -/
theorem Memory.write_wf {m : Memory} (h : m.wf = true) {a : Nat} (ha : a < 2 ^ 32) (b : Byte) :
    (m.write a b).wf = true :=
  Memory.write_wfFrom h (Nat.zero_le a) ha b

/-- Memories in canonical form that read alike are equal. -/
theorem Memory.ext_from {m m' : Memory} {lo : Nat} (h : Memory.wfFrom lo m = true) (h' : Memory.wfFrom lo m' = true)
    (hr : ∀ a, m.read a = m'.read a) : m = m' := by
  induction m generalizing lo m' with
  | nil =>
    cases m' with
    | nil => rfl
    | cons c' m' =>
      obtain ⟨k', b'⟩ := c'
      simp only [Memory.wfFrom, Bool.and_eq_true, bne_iff_ne] at h'
      exact absurd (by simpa [Memory.read] using (hr k').symm) h'.1.2
  | cons c m ih =>
    obtain ⟨k, b⟩ := c
    cases m' with
    | nil =>
      simp only [Memory.wfFrom, Bool.and_eq_true, bne_iff_ne] at h
      exact absurd (by simpa [Memory.read] using hr k) h.1.2
    | cons c' m' =>
      obtain ⟨k', b'⟩ := c'
      simp only [Memory.wfFrom, Bool.and_eq_true, decide_eq_true_eq, bne_iff_ne] at h h'
      have hk : k = k' := by
        rcases Nat.lt_trichotomy k k' with hlt | heq | hgt
        · have := hr k
          rw [Memory.read, if_pos rfl, Memory.read, if_neg (by omega),
            Memory.read_below h'.2 (by omega)] at this
          exact absurd this h.1.2
        · exact heq
        · have := hr k'
          rw [Memory.read, if_neg (by omega), Memory.read_below h.2 (by omega), Memory.read, if_pos rfl] at this
          exact absurd this.symm h'.1.2
      subst hk
      have hb : b = b' := by simpa [Memory.read] using hr k
      subst hb
      have : m = m' := by
        refine ih h.2 h'.2 fun a => ?_
        by_cases ha : k = a
        · subst ha
          rw [Memory.read_below h.2 (by omega), Memory.read_below h'.2 (by omega)]
        · simpa [Memory.read, ha] using hr a
      rw [this]

/-- Memories in canonical form that read alike are equal. -/
theorem Memory.ext {m m' : Memory} (h : m.wf = true) (h' : m'.wf = true) (hr : ∀ a, m.read a = m'.read a) : m = m' :=
  Memory.ext_from h h' hr

/-! ## The window of old contents -/

theorem Stale.wfFrom_mono {m : Stale} {lo lo' : Nat} (h : Stale.wfFrom lo m = true) (hl : lo' ≤ lo) :
    Stale.wfFrom lo' m = true := by
  cases m with
  | nil => rfl
  | cons c m =>
    obtain ⟨k, b⟩ := c
    simp only [Stale.wfFrom, Bool.and_eq_true, decide_eq_true_eq] at h ⊢
    exact ⟨⟨by omega, h.1.2⟩, h.2⟩

theorem Stale.note_wfFrom {m : Stale} {lo a : Nat} (h : Stale.wfFrom lo m = true) (hlo : lo ≤ a) (ha : a < 2 ^ 32)
    (b : Byte) : Stale.wfFrom lo (m.note a b) = true := by
  induction m generalizing lo with
  | nil =>
    simp only [Stale.note, Stale.wfFrom, Bool.and_eq_true, decide_eq_true_eq, Bool.and_true]
    exact ⟨hlo, ha⟩
  | cons d m ih =>
    obtain ⟨k, e⟩ := d
    have h0 := h
    simp only [Stale.wfFrom, Bool.and_eq_true, decide_eq_true_eq] at h
    unfold Stale.note
    by_cases hak : a < k
    · rw [if_pos hak]
      simp only [Stale.wfFrom, Bool.and_eq_true, decide_eq_true_eq]
      exact ⟨⟨hlo, ha⟩, ⟨by omega, h.1.2⟩, h.2⟩
    · rw [if_neg hak]
      by_cases hk : a = k
      · rw [if_pos hk]; exact h0
      · rw [if_neg hk]
        simp only [Stale.wfFrom, Bool.and_eq_true, decide_eq_true_eq]
        exact ⟨h.1, ih h.2 (by omega)⟩

/-- Remembering a byte keeps the canonical form. -/
theorem Stale.note_wf {m : Stale} (h : m.wf = true) {a : Nat} (ha : a < 2 ^ 32) (b : Byte) : (m.note a b).wf = true :=
  Stale.note_wfFrom h (Nat.zero_le a) ha b

/-- Below the first remembered address nothing is remembered. -/
theorem Stale.read_below {m : Stale} {lo a : Nat} (h : Stale.wfFrom lo m = true) (ha : a < lo) : m.read a = none := by
  induction m generalizing lo with
  | nil => rfl
  | cons c m ih =>
    obtain ⟨k, b⟩ := c
    simp only [Stale.wfFrom, Bool.and_eq_true, decide_eq_true_eq] at h
    rw [Stale.read, if_neg (by omega)]
    exact ih h.2 (by omega)

theorem Stale.read_note_from {m : Stale} {lo : Nat} (h : Stale.wfFrom lo m = true) (a : Nat) (b : Byte) (c : Nat) :
    (m.note a b).read c = if c = a then some ((m.read a).getD b) else m.read c := by
  induction m generalizing lo with
  | nil =>
    by_cases hc : c = a
    · subst hc; simp [Stale.note, Stale.read]
    · simp [Stale.note, Stale.read, hc, Ne.symm hc]
  | cons d m ih =>
    obtain ⟨k, e⟩ := d
    simp only [Stale.wfFrom, Bool.and_eq_true, decide_eq_true_eq] at h
    unfold Stale.note
    by_cases hak : a < k
    · rw [if_pos hak, Stale.read]
      by_cases hc : c = a
      · subst hc
        rw [if_pos rfl, if_pos rfl, Stale.read, if_neg (by omega), Stale.read_below h.2 (by omega)]
        rfl
      · rw [if_neg (Ne.symm hc), if_neg hc]
    · rw [if_neg hak]
      by_cases hk : a = k
      · subst hk
        rw [if_pos rfl]
        by_cases hc : c = a
        · subst hc; simp [Stale.read]
        · rw [if_neg hc]
      · rw [if_neg hk]
        simp only [Stale.read]
        rw [ih h.2, if_neg (Ne.symm hk)]
        by_cases hc : k = c
        · rw [if_pos hc, if_pos hc, if_neg (by omega)]
        · rw [if_neg hc, if_neg hc]

/-- What is remembered after a store: the oldest contents at its address, the rest as before. -/
theorem Stale.read_note {m : Stale} (h : m.wf = true) (a : Nat) (b : Byte) (c : Nat) :
    (m.note a b).read c = if c = a then some ((m.read a).getD b) else m.read c :=
  Stale.read_note_from h a b c

/-! ## Stores -/

theorem storeByte_memWf {s : State} (h : s.mem.wf = true) (a : Word) (b : Byte) : (storeByte a b s).mem.wf = true :=
  Memory.write_wf h a.isLt b

theorem storeByte_staleWf {s : State} (h : s.stale.wf = true) (a : Word) (b : Byte) :
    (storeByte a b s).stale.wf = true :=
  Stale.note_wf h a.isLt _

theorem byteAt_storeByte {s : State} (h : s.mem.wf = true) (a : Word) (b : Byte) (c : Word) :
    byteAt (storeByte a b s) c = if c = a then b else byteAt s c := by
  show (s.mem.write a.toNat b).read c.toNat = _
  rw [Memory.read_write h]
  simp only [BitVec.toNat_inj]
  rfl

theorem storeBytes_memWf {s : State} (h : s.mem.wf = true) (a : Word) (n : Nat) (v : Word) :
    (storeBytes a n v s).mem.wf = true := by
  unfold storeBytes
  (repeat' split) <;> (repeat' apply storeByte_memWf) <;> exact h

theorem storeBytes_staleWf {s : State} (h : s.stale.wf = true) (a : Word) (n : Nat) (v : Word) :
    (storeBytes a n v s).stale.wf = true := by
  unfold storeBytes
  (repeat' split) <;> (repeat' apply storeByte_staleWf) <;> exact h

end Sys2Proof.Machine
end

