-- ==== Sys2Proof/Laws/Ops.lean ====
section
/-! SUPPORT. What each shared operation does, said once: register access, completion, memory access, trap entry and
return. The provers cite these instead of unfolding the operations. -/

namespace Sys2Proof.Machine

/-! ## Registers -/

/-- A register read after a register write. -/
theorem readReg_setReg (s : State) (rd : Reg) (v : Word) (r : Reg) :
    readReg (setReg rd v s) r = if r = 0#5 then 0#32 else if r = rd then v else readReg s r := by
  by_cases hr : r = 0#5
  · simp [readReg, hr]
  · by_cases hd : rd = 0#5
    · have : r ≠ rd := fun h => hr (h.trans hd)
      simp [setReg, hd, hr]
    · unfold setReg readReg
      rw [if_neg hd, if_neg hr, if_neg hr, if_neg hr]
      by_cases h : r = rd
      · subst h; simp
      · rw [if_neg h]
        have : rd.toNat ≠ r.toNat := fun e => h (BitVec.eq_of_toNat_eq e.symm)
        simp [this]

/-- Reading a register looks at the register file alone. -/
theorem readReg_congr {s t : State} (h : t.x = s.x) (r : Reg) : readReg t r = readReg s r := by
  unfold readReg; rw [h]

/-- Reading a byte looks at memory alone. -/
theorem byteAt_congr {s t : State} (h : t.mem = s.mem) (a : Word) : byteAt t a = byteAt s a := by
  unfold byteAt; rw [h]

theorem memoryKept_of {s t : State} (hm : t.mem = s.mem) (hs : t.stale = s.stale) : MemoryKept s t :=
  ⟨fun a => byteAt_congr hm a, hs⟩

theorem regWrite_setReg (s : State) (rd : Reg) (v : Word) : RegWrite s (setReg rd v s) rd v where
  dest := by rw [readReg_setReg]; simp
  others r h := by
    rw [readReg_setReg, if_neg h]
    by_cases hr : r = 0#5
    · simp [readReg, hr]
    · rw [if_neg hr]

theorem regWrite_zero {s t : State} (h : RegsKept s t) : RegWrite s t 0#5 0#32 where
  dest := by rw [if_pos rfl, h]; simp [readReg]
  others r _ := h r

/-! ## Completion -/

theorem onlyCounted_of {s t : State} (h : t.csr = (countRetired s).csr) : OnlyCounted s t where
  count := by rw [h]; simp
  others := by
    rw [h]; unfold countRetired; split <;> rfl

/-- A completing instruction that changes registers only: the next pc and the count are added, the rest is kept. -/
theorem computes_retireTo {s s' : State} {rd : Reg} {v next : Word} (hr : RegWrite s s' rd v)
    (h : s' = { s with x := s'.x }) : ∃ t, retireTo next s' = .next t ∧ Computes s t rd v next := by
  have hc : s'.csr = s.csr := by rw [h]
  refine ⟨_, rfl, ?_⟩
  constructor
  · exact ⟨by simpa [readReg] using hr.dest, fun r hn => by simpa [readReg] using hr.others r hn⟩
  · rfl
  · show (countRetired s').priv = _; rw [countRetired_priv, h]
  · apply onlyCounted_of
    show (countRetired s').csr = _
    unfold countRetired; rw [hc]; split <;> simp [hc]
  · constructor <;> simp <;> rw [h]
  · apply memoryKept_of <;> simp <;> rw [h]
  · show (countRetired s').reservation = _; rw [countRetired_reservation, h]

theorem setReg_eq (rd : Reg) (v : Word) (s : State) : setReg rd v s = { s with x := (setReg rd v s).x } := by
  unfold setReg; split <;> rfl

/-- Writing `rd` and completing computes exactly that. -/
theorem retireWrite_computes (rd : Reg) (v len : Word) (s : State) :
    ∃ t, retireWrite rd v len s = .next t ∧ Computes s t rd v (s.pc + len) := by
  have := computes_retireTo (next := s.pc + len) (regWrite_setReg s rd v) (setReg_eq rd v s)
  simpa [retireWrite, retire] using this

/-- Completing at `next` without writing a register. -/
theorem retireTo_computes (next : Word) (s : State) :
    ∃ t, retireTo next s = .next t ∧ Computes s t 0#5 0#32 next :=
  computes_retireTo (regWrite_zero fun _ => rfl) rfl

/-- A jump links and goes to its target. -/
theorem jumpOp_computes (rd : Reg) (target len : Word) (s : State) :
    ∃ t, jumpOp rd target len s = .next t ∧ Computes s t rd (s.pc + len) target :=
  computes_retireTo (regWrite_setReg s rd _) (setReg_eq rd _ s)

/-- A branch writes no register. -/
theorem branchOp_computes (c : Bool) (off len : Word) (s : State) :
    ∃ t, branchOp c off len s = .next t ∧
      Computes s t 0#5 0#32 (if c then s.pc + off else s.pc + len) :=
  retireTo_computes _ s

/-! ## Memory access -/

/-- In RAM or ROM, a read gives the bytes there and changes nothing. -/
theorem memRead_memory {s : State} {a : Word} (h : placeOf s.cfg a = .ram ∨ placeOf s.cfg a = .rom) (n : Nat) :
    memRead a n s = .ok (memValue s a n, s) := by
  unfold memRead; rcases h with h | h <;> rw [h]

/-- Everything a read can do: it answers with the state as it was, or after one draw and perhaps a bus error; or the
TIMER refuses the size. -/
theorem memRead_cases (a : Word) (n : Nat) (s : State) :
    (∃ v, memRead a n s = .ok (v, s)) ∨ (∃ v, memRead a n s = .ok (v, drawn s)) ∨
    (∃ v, memRead a n s = .ok (v, raiseBusError false a (drawn s))) ∨
    (placeOf s.cfg a = .timer ∧ n ≠ 4 ∧ memRead a n s = .error .timerAccessSize) := by
  unfold memRead
  split
  · by_cases hn : n = 4
    · exact .inl ⟨_, by rw [if_pos hn]⟩
    · next h => exact .inr (.inr (.inr ⟨h, hn, by rw [if_neg hn]⟩))
  · exact .inl ⟨_, rfl⟩
  · exact .inl ⟨_, rfl⟩
  · exact .inl ⟨_, rfl⟩
  · by_cases hb : s.now.busError = true
    · exact .inr (.inr (.inl ⟨_, by rw [if_pos hb]⟩))
    · exact .inr (.inl ⟨_, by rw [if_neg hb]⟩)
  · exact .inr (.inr (.inl ⟨_, rfl⟩))

/-- A store of one byte leaves every byte's contents from before the window as they were. -/
theorem fetchSees_storeByte {s : State} (hm : s.mem.wf = true) (hs : s.stale.wf = true) (a : Word) (b : Byte) (c : Word) :
    fetchSees (storeByte a b s) true c = fetchSees s true c := by
  have hr : (storeByte a b s).stale.read c.toNat =
      if c = a then some ((s.stale.read a.toNat).getD (byteAt s a)) else s.stale.read c.toNat := by
    have := Stale.read_note hs a.toNat (byteAt s a) c.toNat
    simp only [BitVec.toNat_inj] at this
    exact this
  unfold fetchSees
  rw [hr, byteAt_storeByte hm]
  by_cases h : c = a
  · subst h
    simp only [if_true]
    cases s.stale.read c.toNat <;> rfl
  · simp only [if_neg h]

/-- The same for an aligned store. -/
theorem fetchSees_storeBytes {s : State} (hm : s.mem.wf = true) (hs : s.stale.wf = true) (a : Word) (n : Nat) (v : Word)
    (c : Word) : fetchSees (storeBytes a n v s) true c = fetchSees s true c := by
  have m1 := storeByte_memWf hm a (byteOf v 0)
  have s1 := storeByte_staleWf hs a (byteOf v 0)
  have m2 := storeByte_memWf m1 (a + 1#32) (byteOf v 1)
  have s2 := storeByte_staleWf s1 (a + 1#32) (byteOf v 1)
  have m3 := storeByte_memWf m2 (a + 2#32) (byteOf v 2)
  have s3 := storeByte_staleWf s2 (a + 2#32) (byteOf v 2)
  unfold storeBytes
  split
  · exact fetchSees_storeByte hm hs _ _ c
  · split
    · rw [fetchSees_storeByte m1 s1, fetchSees_storeByte hm hs]
    · rw [fetchSees_storeByte m3 s3, fetchSees_storeByte m2 s2, fetchSees_storeByte m1 s1, fetchSees_storeByte hm hs]

/-- The bytes of an aligned store, one by one. -/
theorem byteAt_storeBytes {s : State} (h : s.mem.wf = true) {n : Nat} (hn : n = 1 ∨ n = 2 ∨ n = 4) (a : Word)
    (v : Word) : BytesWritten s (storeBytes a n v s) a n v := by
  have h1 := storeByte_memWf h a (byteOf v 0)
  have h2 := storeByte_memWf h1 (a + 1#32) (byteOf v 1)
  have h3 := storeByte_memWf h2 (a + 2#32) (byteOf v 2)
  have ne : ∀ i j : Nat, i < 4 → j < 4 → i ≠ j → a + BitVec.ofNat 32 i ≠ a + BitVec.ofNat 32 j := by
    intro i j hi hj hij e
    have := (BitVec.add_right_inj a).mp e
    have := congrArg BitVec.toNat this
    simp at this
    omega
  have e0 : a = a + BitVec.ofNat 32 0 := by simp
  have hold : s.stale.wf = true → ∀ b, fetchSees (storeBytes a n v s) true b = fetchSees s true b :=
    fun hs b => fetchSees_storeBytes h hs a n v b
  rcases hn with rfl | rfl | rfl
  · refine ⟨?_, ?_, hold⟩
    · intro k hk
      obtain rfl : k = 0 := by omega
      simp [storeBytes, byteAddr, byteAt_storeByte h]
    · intro b hb
      have := hb 0 (by omega)
      simp only [byteAddr, ← e0] at this
      simp [storeBytes, byteAt_storeByte h, this]
  · refine ⟨?_, ?_, hold⟩
    · intro k hk
      have : k = 0 ∨ k = 1 := by omega
      rcases this with rfl | rfl
      · have := ne 0 1 (by omega) (by omega) (by omega)
        simp only [← e0] at this
        simp [storeBytes, byteAddr, byteAt_storeByte h, byteAt_storeByte h1]
      · simp [storeBytes, byteAddr, byteAt_storeByte h1]
    · intro b hb
      have q0 := hb 0 (by omega)
      have q1 := hb 1 (by omega)
      simp only [byteAddr, ← e0] at q0 q1
      simp [storeBytes, byteAt_storeByte h, byteAt_storeByte h1, q0, q1]
  · refine ⟨?_, ?_, hold⟩
    · intro k hk
      have : k = 0 ∨ k = 1 ∨ k = 2 ∨ k = 3 := by omega
      rcases this with rfl | rfl | rfl | rfl <;>
        simp [storeBytes, byteAddr, byteAt_storeByte h, byteAt_storeByte h1, byteAt_storeByte h2,
          byteAt_storeByte h3]
    · intro b hb
      have q0 := hb 0 (by omega)
      have q1 := hb 1 (by omega)
      have q2 := hb 2 (by omega)
      have q3 := hb 3 (by omega)
      simp only [byteAddr, ← e0] at q0 q1 q2 q3
      simp [storeBytes, byteAt_storeByte h, byteAt_storeByte h1, byteAt_storeByte h2, byteAt_storeByte h3,
        q0, q1, q2, q3]

theorem breakReservation_eq (a : Word) (n : Nat) (s : State) :
    breakReservation a n s = { s with reservation := reservationAfter s a n } := by
  unfold breakReservation overlapsReservation reservationAfter
  cases h : s.reservation with
  | none => simp; rw [← h]
  | some r =>
    by_cases hc : a.toNat < r.toNat + 4 ∧ r.toNat < a.toNat + n
    · simp [hc]
    · have : ¬ (decide (a.toNat < r.toNat + 4) && decide (r.toNat < a.toNat + n)) = true := by simpa using hc
      simp only [this, if_neg hc]; rw [← h]; simp

/-- In RAM, a write stores the bytes and breaks an overlapping reservation. -/
theorem memWrite_ram {s : State} {a : Word} (h : placeOf s.cfg a = .ram) (n : Nat) (v : Word) :
    memWrite a n v s = .ok (breakReservation a n (storeBytes a n v s)) := by
  unfold memWrite writePlace; rw [h]

/-- Everything a write can do to the place it addresses. -/
theorem writePlace_cases (a : Word) (n : Nat) (v : Word) (s : State) :
    (placeOf s.cfg a = .timer ∧ n = 4 ∧
      writePlace a n v s = .ok { s with timer := timerWrite (a - s.cfg.timerBase).toNat v s.timer }) ∨
    (placeOf s.cfg a = .timer ∧ n ≠ 4 ∧ writePlace a n v s = .error .timerAccessSize) ∨
    (placeOf s.cfg a = .eclic ∧
      writePlace a n v s = .ok { s with eclic := eclicWrite s.cfg (a - s.cfg.eclicBase).toNat n v s.eclic }) ∨
    (placeOf s.cfg a = .ram ∧ writePlace a n v s = .ok (storeBytes a n v s)) ∨
    writePlace a n v s = .ok s ∨ writePlace a n v s = .ok (raiseBusError true a s) := by
  unfold writePlace
  split
  · next h =>
    by_cases hn : n = 4
    · exact .inl ⟨h, hn, by rw [if_pos hn]⟩
    · exact .inr (.inl ⟨h, hn, by rw [if_neg hn]⟩)
  · next h => exact .inr (.inr (.inl ⟨h, rfl⟩))
  · next h => exact .inr (.inr (.inr (.inl ⟨h, rfl⟩)))
  · by_cases hb : s.now.busError = true
    · exact .inr (.inr (.inr (.inr (.inr (by rw [if_pos hb])))))
    · exact .inr (.inr (.inr (.inr (.inl (by rw [if_neg hb])))))
  · by_cases hb : s.now.busError = true
    · exact .inr (.inr (.inr (.inr (.inr (by rw [if_pos hb])))))
    · exact .inr (.inr (.inr (.inr (.inl (by rw [if_neg hb])))))
  · exact .inr (.inr (.inr (.inr (.inr rfl))))

/-- What completing changes beside the pc: the count. -/
theorem retire_stores {s s' : State} {a : Word} {n : Nat} {v len : Word} (hb : BytesWritten s s' a n v)
    (h : s' = { s with mem := s'.mem, stale := s'.stale, reservation := reservationAfter s a n }) :
    ∃ t, retire len s' = .next t ∧ Stores s t a n v (s.pc + len) := by
  refine ⟨_, rfl, ?_⟩
  have hc : s'.csr = s.csr := by rw [h]
  constructor
  · exact ⟨fun k hk => by simpa [byteAt] using hb.stored k hk, fun b hn => by simpa [byteAt] using hb.outside b hn,
      fun hs b => by simpa [fetchSees, byteAt] using hb.old hs b⟩
  · intro r; simp [readReg]; rw [h]
  · show s'.pc + len = _; rw [h]
  · simp; rw [h]
  · apply onlyCounted_of
    show (countRetired s').csr = _
    unfold countRetired; rw [hc]; split <;> simp [hc]
  · constructor <;> simp <;> rw [h]
  · simp; rw [h]

/-- An aligned store to RAM. -/
theorem storeOp_ram {s : State} {a : Word} {n : Nat} (hm : s.mem.wf = true) (hn : n = 1 ∨ n = 2 ∨ n = 4)
    (hp : placeOf s.cfg a = .ram) (ha : misaligned a n = false) (v len : Word) :
    ∃ t, storeOp a n v len s = .next t ∧ Stores s t a n v (s.pc + len) := by
  unfold storeOp
  rw [if_neg (by simp [ha]), memWrite_ram hp]
  have hb := byteAt_storeBytes hm hn a v
  refine retire_stores (s' := breakReservation a n (storeBytes a n v s)) ?_ ?_
  · exact ⟨fun k hk => by simpa [byteAt] using hb.stored k hk, fun b hq => by simpa [byteAt] using hb.outside b hq,
      fun hs b => by simpa [fetchSees, byteAt] using hb.old hs b⟩
  · rw [breakReservation_eq]
    have : reservationAfter (storeBytes a n v s) a n = reservationAfter s a n := by
      unfold reservationAfter; simp
    rw [this]
    unfold storeBytes storeByte
    (repeat' split) <;> rfl

end Sys2Proof.Machine
end

