-- ==== Sys2Proof/Laws/Traps.lean ====
section
/-! SUPPORT. What taking an exception, an NMI or an interrupt does, field by field, and the return from a trap. -/

namespace Sys2Proof.Machine

theorem mask_fffffffe (i : Nat) (hi : i < 32) : (0xFFFFFFFE#32).getLsbD i = decide (1 ≤ i) := by
  have : ∀ j : Fin 32, (0xFFFFFFFE#32).getLsbD j.val = decide (1 ≤ j.val) := by decide
  exact this ⟨i, hi⟩
theorem mask_fffffffc (i : Nat) (hi : i < 32) : (0xFFFFFFFC#32).getLsbD i = decide (2 ≤ i) := by
  have : ∀ j : Fin 32, (0xFFFFFFFC#32).getLsbD j.val = decide (2 ≤ j.val) := by decide
  exact this ⟨i, hi⟩
theorem clearBit0_eq (v : Word) : clearBit0 v = v.extractLsb' 1 31 ++ 0#1 := by
  apply BitVec.eq_of_getLsbD_eq
  intro i hi
  unfold clearBit0
  rw [BitVec.getLsbD_and, mask_fffffffe i hi, BitVec.getLsbD_append]
  rcases Nat.lt_or_ge i 1 with h | h
  · simp [h]
  · have e : 1 + (i - 1) = i := by omega
    simp only [BitVec.getLsbD_extractLsb', e]
    simp [h, show ¬ i < 1 by omega, show i - 1 < 31 by omega]
theorem entryAddress_eq (v : Word) : entryAddress v = align4 v := by
  apply BitVec.eq_of_getLsbD_eq
  intro i hi
  unfold entryAddress align4
  rw [BitVec.getLsbD_and, mask_fffffffc i hi, BitVec.getLsbD_append]
  rcases Nat.lt_or_ge i 2 with h | h
  · simp [h]
  · have e : 2 + (i - 2) = i := by omega
    simp only [BitVec.getLsbD_extractLsb', e]
    simp [h, show ¬ i < 2 by omega, show i - 2 < 30 by omega]
theorem clearBit0_even (v : Word) : (clearBit0 v).getLsbD 0 = false := by
  unfold clearBit0; rw [BitVec.getLsbD_and, mask_fffffffe 0 (by omega)]; simp

theorem entryAddress_even (v : Word) : (entryAddress v).getLsbD 0 = false := by
  unfold entryAddress; rw [BitVec.getLsbD_and, mask_fffffffc 0 (by omega)]; simp

/-- An exception entry takes the exception, from the state `s` it is raised in. -/
theorem exceptionEntry_takes (code : BitVec 12) (tval : Word) (s : State) :
    TakesException s (exceptionEntry code tval s.pc s) code tval where
  entered :=
    { mepc := clearBit0_eq s.pc
      mstatus := rfl, msubm := rfl, priv := rfl, reservation := rfl
      regs := fun _ => rfl
      memory := ⟨fun _ => rfl, rfl⟩
      csrs := ⟨rfl, rfl, rfl, rfl, rfl, rfl, rfl, rfl, rfl, rfl, rfl, rfl, rfl⟩ }
  pushed := ⟨rfl, rfl, rfl, rfl, rfl, rfl⟩
  cause := rfl
  mtval := rfl
  mil := rfl
  pc := entryAddress_eq _
  units := ⟨rfl, rfl, rfl, rfl, rfl, rfl, rfl, rfl, rfl, rfl⟩

/-- An exception whose `mtval` is a free value: the draw changes nothing else. -/
theorem exceptionEntry_drawn_takes (code : BitVec 12) (tval : Word) (s : State) :
    TakesException s (exceptionEntry code tval s.pc (drawn s)) code tval where
  entered :=
    { mepc := clearBit0_eq s.pc
      mstatus := rfl, msubm := rfl, priv := rfl, reservation := rfl
      regs := fun _ => rfl
      memory := ⟨fun _ => rfl, rfl⟩
      csrs := ⟨rfl, rfl, rfl, rfl, rfl, rfl, rfl, rfl, rfl, rfl, rfl, rfl, rfl⟩ }
  pushed := ⟨rfl, rfl, rfl, rfl, rfl, rfl⟩
  cause := rfl
  mtval := rfl
  mil := rfl
  pc := entryAddress_eq _
  units := ⟨rfl, rfl, rfl, rfl, rfl, rfl, rfl, rfl, rfl, rfl⟩

/-- The NMI entry takes the NMI. -/
theorem nmiEntry_takes (s : State) : TakesNmi s (nmiEntry s) where
  entered :=
    { mepc := clearBit0_eq s.pc
      mstatus := rfl, msubm := rfl, priv := rfl, reservation := rfl
      regs := fun _ => rfl
      memory := ⟨fun _ => rfl, rfl⟩
      csrs := ⟨rfl, rfl, rfl, rfl, rfl, rfl, rfl, rfl, rfl, rfl, rfl, rfl, rfl⟩ }
  pushed := ⟨rfl, rfl, rfl, rfl, rfl, rfl⟩
  cause := rfl
  mtval := rfl
  mil := rfl
  pc := by
    show (if s.csr.nmiCauseFff then entryAddress s.csr.mtvec else s.cfg.resetVector) = _
    rw [entryAddress_eq]
  latch := rfl
  units := ⟨rfl, rfl, rfl, rfl, rfl, rfl, rfl, rfl, rfl, rfl⟩

/-- The interrupt updates, with the entry address set to `entry`. -/
theorem interruptUpdates_takes (r : Candidate) (entry : Word) (s : State) :
    TakesInterrupt s { interruptUpdates r s with pc := entry } r entry where
  entered :=
    { mepc := clearBit0_eq s.pc
      mstatus := rfl, msubm := rfl, priv := rfl, reservation := rfl
      regs := fun _ => rfl
      memory := ⟨fun _ => rfl, rfl⟩
      csrs := ⟨rfl, rfl, rfl, rfl, rfl, rfl, rfl, rfl, rfl, rfl, rfl, rfl, rfl⟩ }
  stack := ⟨rfl, rfl, rfl, rfl, rfl, rfl⟩
  interrupt := rfl
  exccode := rfl
  mpil := rfl
  mil := rfl
  mtval := rfl
  pc := rfl

/-- A vectored entry whose table read succeeded. -/
theorem interruptEntry_vectored {r : Candidate} {s : State} {v : Word} (hv : r.shv = true)
    (hr : vectorRead s r.id = some v) :
    interruptEntry r s = claimSource r.id { setMinhv false (interruptUpdates r s) with pc := clearBit0 v } := by
  unfold interruptEntry; simp only [hv, hr, if_true]

/-- A vectored entry whose table read failed (R479). -/
theorem interruptEntry_failed {r : Candidate} {s : State} (hv : r.shv = true) (hr : vectorRead s r.id = none) :
    interruptEntry r s =
      exceptionEntry 1#12 (vectorAddress s r.id) (interruptUpdates r s).csr.mepc
        (setMinhv true (interruptUpdates r s)) := by
  unfold interruptEntry; simp only [hv, hr, if_true]

/-- A non-vectored entry. -/
theorem interruptEntry_common {r : Candidate} {s : State} (hv : r.shv = false) :
    interruptEntry r s = { interruptUpdates r s with pc := commonEntryAddress s.csr } := by
  unfold interruptEntry; simp [hv]

end Sys2Proof.Machine
end

