-- ==== Sys2Proof/Laws/Shapes.lean ====
section
/-! SUPPORT. What the instructions of one shape run: a load is `loadOp`, a store `storeOp`, an AMO `amoOp`, and a CSR
instruction `csrInstr`, each with the operands its row of Sys2Proof/Safety.lean names. -/

namespace Sys2Proof.Machine

/-! ## Alignment -/

/-- A byte access is never misaligned (R125). -/
theorem misaligned_one (a : Word) : misaligned a 1 = false := by simp [misaligned, Nat.mod_one]

theorem misaligned_false {a : Word} {n : Nat} (h : a.toNat % n = 0) : misaligned a n = false := by
  simp [misaligned, h]

theorem misaligned_true {a : Word} {n : Nat} (h : a.toNat % n ≠ 0) : misaligned a n = true := by
  simp [misaligned, h]

/-! ## Loads, stores, AMOs -/

/-- A load runs `loadOp`, and extends the bytes read as its row says. -/
theorem load_exec {i : Instr} {rd base : Reg} {off len : Word} {e : Extend} (h : Load i rd base off e len)
    (s : State) :
    ∃ ext, exec i s = loadOp rd (readReg s base + off) e.size ext len s ∧
      ∀ v, ext (truncateTo e.size v) = e.apply v := by
  have h8 : ∀ v : Word, signExtend8 (truncateTo 1 v) = (v.extractLsb' 0 8).signExtend 32 := by
    intro v
    have : ((v.extractLsb' 0 8).zeroExtend 32).extractLsb' 0 8 = v.extractLsb' 0 8 := by
      apply BitVec.eq_of_toNat_eq; simp
    simp only [signExtend8, truncateTo, if_true, this]
  have h16 : ∀ v : Word, signExtend16 (truncateTo 2 v) = (v.extractLsb' 0 16).signExtend 32 := by
    intro v
    have : ((v.extractLsb' 0 16).zeroExtend 32).extractLsb' 0 16 = v.extractLsb' 0 16 := by
      apply BitVec.eq_of_toNat_eq; simp
    simp only [signExtend16, truncateTo, if_neg (show ¬ (2 = 1) by decide), if_true, this]
  cases h
  · exact ⟨signExtend8, rfl, h8⟩
  · exact ⟨signExtend16, rfl, h16⟩
  all_goals exact ⟨id, rfl, fun v => by simp [truncateTo, Extend.size, Extend.apply]⟩

/-- A store runs `storeOp`, on 1, 2 or 4 bytes. -/
theorem store_exec {i : Instr} {src base : Reg} {off len : Word} {n : Nat} (h : Store i src base off n len) (s : State) :
    exec i s = storeOp (readReg s base + off) n (readReg s src) len s ∧ (n = 1 ∨ n = 2 ∨ n = 4) := by
  cases h <;> exact ⟨rfl, by decide⟩

theorem amoMin_eq (t v : Word) : amoMin t v = if t.toInt ≤ v.toInt then t else v := by
  simp only [amoMin, ltSigned, BitVec.slt, decide_eq_true_eq]
  split <;> split <;> first | rfl | (apply BitVec.eq_of_toInt_eq; omega)

theorem amoMax_eq (t v : Word) : amoMax t v = if t.toInt ≤ v.toInt then v else t := by
  simp only [amoMax, ltSigned, BitVec.slt, decide_eq_true_eq]
  split <;> split <;> first | rfl | (apply BitVec.eq_of_toInt_eq; omega)

theorem amoMinu_eq (t v : Word) : amoMinu t v = if t.toNat ≤ v.toNat then t else v := by
  simp only [amoMinu, ltUnsigned, BitVec.ult, decide_eq_true_eq]
  split <;> split <;> first | rfl | (apply BitVec.eq_of_toNat_eq; omega)

theorem amoMaxu_eq (t v : Word) : amoMaxu t v = if t.toNat ≤ v.toNat then v else t := by
  simp only [amoMaxu, ltUnsigned, BitVec.ult, decide_eq_true_eq]
  split <;> split <;> first | rfl | (apply BitVec.eq_of_toNat_eq; omega)

/-- An AMO runs `amoOp` with the function of its row. -/
theorem amo_exec {i : Instr} {rd rs2 rs1 : Reg} {f : Word → Word → Word} (h : Amo i rd rs2 rs1 f) (s : State) :
    exec i s = amoOp f rd rs2 rs1 s := by
  cases h
  case min => rw [← funext₂ amoMin_eq]; simp only [exec, execAmominW]
  case max => rw [← funext₂ amoMax_eq]; simp only [exec, execAmomaxW]
  case minu => rw [← funext₂ amoMinu_eq]; simp only [exec, execAmominuW]
  case maxu => rw [← funext₂ amoMaxu_eq]; simp only [exec, execAmomaxuW]
  all_goals rfl

/-- Drawing a free value is none of what `Computes` speaks of. -/
theorem computes_of_drawn {s t : State} {rd : Reg} {v next : Word} (h : Computes (drawn s) t rd v next) :
    Computes s t rd v next := by
  obtain ⟨⟨a, b⟩, c, d, ⟨e, e'⟩, ⟨f1, f2, f3, f4, f5, f6, f7, f8, f9, f10⟩, ⟨g, g'⟩, k⟩ := h
  exact ⟨⟨a, b⟩, c, d, ⟨e, e'⟩, ⟨f1, f2, f3, f4, f5, f6, f7, f8, f9, f10⟩, ⟨g, g'⟩, k⟩

/-! ## CSR instructions -/

/-- A CSR instruction runs `csrInstr` with the columns of its row of R284. -/
theorem csr_exec (f : CsrForm) (rd : Reg) (a : BitVec 12) (u : BitVec 5) (s : State) :
    ∃ fn src, exec (f.instr rd a u) s = csrInstr fn src rd a (encode (f.instr rd a u)).value s ∧
      csrWrites fn src = f.writes u ∧ (∀ o t, csrNewValue fn o t = f.newValue o t) ∧
      csrSrcValue s src = f.operand s u := by
  cases f <;> exact ⟨_, _, rfl, rfl, fun _ _ => rfl, rfl⟩

/-- Outside the check a CSR instruction takes Illegal Instruction. -/
theorem csr_exec_illegal {f : CsrForm} {rd : Reg} {a : BitVec 12} {u : BitVec 5} {s : State}
    (h : ∀ n, csrOfAddr a = some n → csrAllowed s n (f.writes u) = false) :
    exec (f.instr rd a u) s = .next (illegalInstruction (encode (f.instr rd a u)).value s) := by
  obtain ⟨fn, src, h1, h2, -, -⟩ := csr_exec f rd a u s
  rw [h1]; unfold csrInstr
  cases hn : csrOfAddr a with
  | none => rfl
  | some n => simp [h2, h n hn]

/-- On a register CSR that the check allows, a CSR instruction counts (unless it writes `minstret`), writes the CSR if it
writes, and then puts the old value in `rd`. -/
theorem csr_exec_reg {f : CsrForm} {rd : Reg} {a : BitVec 12} {u : BitVec 5} {r : CsrReg} {s : State}
    (h1 : csrOfAddr a = some (.reg r)) (h2 : csrAllowed s (.reg r) (f.writes u) = true) :
    exec (f.instr rd a u) s = .next { setReg rd (csrRead s r)
      (if f.writes u = true then
        csrWrite r (f.newValue (csrRead s r) (f.operand s u))
          (if (f.writes u && isInstret r) = true then s else countRetired s)
      else if (f.writes u && isInstret r) = true then s else countRetired s) with pc := s.pc + 4#32 } := by
  obtain ⟨fn, src, h3, h4, h5, h6⟩ := csr_exec f rd a u s
  rw [h3]; unfold csrInstr; rw [h1]; simp only; rw [h4, if_pos h2]; unfold csrAccess
  simp only [h4, h5, h6]

/-- On an operation CSR, in Machine Mode, a CSR instruction runs `csrOperation`. -/
theorem csr_exec_op {f : CsrForm} {rd : Reg} {a : BitVec 12} {u : BitVec 5} {o : CsrOp} {s : State}
    (h1 : csrOfAddr a = some (.op o)) (hp : s.priv = .M) :
    ∃ fn src, exec (f.instr rd a u) s = csrOperation fn src rd o s ∧ csrWrites fn src = f.writes u ∧
      (∀ x t, csrNewValue fn x t = f.newValue x t) ∧ csrSrcValue s src = f.operand s u := by
  obtain ⟨fn, src, h3, h4, h5, h6⟩ := csr_exec f rd a u s
  refine ⟨fn, src, ?_, h4, h5, h6⟩
  have ha : csrAllowed s (.op o) (csrWrites fn src) = true := by
    unfold csrAllowed; cases o <;> simp [hp, csrAttr]
  rw [h3]; unfold csrInstr; rw [h1]; simp only; rw [if_pos ha]

end Sys2Proof.Machine
end

