-- ==== Sys2Proof/Laws/Eclic.lean ====
section
/-! SUPPORT. What reading and writing bytes of the ECLIC does, register by register. -/

namespace Sys2Proof.Machine

theorem lt_of_sourceExists {c : Config} {j : Nat} (h : sourceExists c j = true) : j < c.numInterrupt := by
  simp only [sourceExists, Bool.and_eq_true, decide_eq_true_eq] at h
  exact h.1

theorem getLsbD_onesLow (n m : Nat) : (onesLow n).getLsbD m = (decide (m < n) && decide (m < 8)) := by
  rw [onesLow, BitVec.getLsbD_ushiftRight, BitVec.getLsbD_allOnes, ← Bool.decide_and, decide_eq_decide]
  omega

/-! ## Reading -/

/-- The byte of register `r` of source `j`. -/
theorem eclicReadByte_source (c : Config) (e : Eclic) {k j r : Nat} (hr : r < 4) (hk : k = 0x1000 + r + 4 * j) :
    eclicReadByte c e k = if sourceExists c j then sourceReadByte c (sourceAt e j) r else 0#8 := by
  unfold eclicReadByte
  rw [if_neg (by omega), if_neg (by omega), if_neg (by omega), if_pos (by omega), show (k - 0x1000) / 4 = j by omega,
    show (k - 0x1000) % 4 = r by omega]

/-- `eclicReadByte` reads the byte register at its offset. -/
theorem eclicReadByte_reads (c : Config) (e : Eclic) (k : Nat) : EclicByte c e k (eclicReadByte c e k) where
  cliccfg := by rintro rfl; rfl
  clicinfo h1 h2 := by unfold eclicReadByte; rw [if_neg (by omega), if_pos ⟨h1, h2⟩]; rfl
  mth := by rintro rfl; rfl
  reserved h1 h2 h3 h4 := by
    unfold eclicReadByte
    rw [if_neg h2, if_neg h3, if_neg h4, if_neg (by omega)]
  ip j hj hk := by
    rw [eclicReadByte_source c e (r := 0) (by omega) hk, if_pos hj]
    unfold sourceReadByte
    cases (sourceAt e j).ip <;> rfl
  ie j hj hk := by
    rw [eclicReadByte_source c e (r := 1) (by omega) (by omega), if_pos hj]
    unfold sourceReadByte
    cases (sourceAt e j).ie <;> rfl
  attr j hj hk := by rw [eclicReadByte_source c e (r := 2) (by omega) (by omega), if_pos hj]; rfl
  ctl j hj hk m := by
    rw [eclicReadByte_source c e (r := 3) (by omega) (by omega), if_pos hj]
    show (ctlRead c (sourceAt e j)).getLsbD m = _
    rw [ctlRead, BitVec.getLsbD_or, getLsbD_onesLow]
    by_cases h1 : m < 8 - c.clicIntCtlBits <;> by_cases h2 : m < 8 <;> simp [h1, h2]
  absent j hj h1 h2 := by
    rw [eclicReadByte_source c e (j := j) (r := k - 0x1000 - 4 * j) (by omega) (by omega),
      if_neg (by simp [hj])]

/-- A read of 1, 2 or 4 bytes is made of the byte registers. -/
theorem eclicRead_bytes (c : Config) (e : Eclic) (k n : Nat) (hn : n = 1 ∨ n = 2 ∨ n = 4) :
    eclicRead c e k n = truncateTo n (eclicReadByte c e (k + 3) ++ eclicReadByte c e (k + 2)
      ++ eclicReadByte c e (k + 1) ++ eclicReadByte c e k) := by
  have split4 : ∀ b3 b2 b1 b0 : Byte, (b3 ++ b2 ++ b1 ++ b0 : Word).extractLsb' 0 8 = b0 ∧
      (b3 ++ b2 ++ b1 ++ b0 : Word).extractLsb' 0 16 = b1 ++ b0 := by
    intro b3 b2 b1 b0
    refine ⟨by rw [extract_append_low _ _ 0 8 (by omega), extract_all], ?_⟩
    apply BitVec.eq_of_getLsbD_eq
    intro i hi
    simp only [BitVec.getLsbD_extractLsb', BitVec.getLsbD_append, hi, decide_true, Bool.true_and, Nat.zero_add]
    split
    · rfl
    · rw [if_pos (by omega)]
  rcases hn with rfl | rfl | rfl
  · simp only [eclicRead, truncateTo, if_true, (split4 _ _ _ _).1]
  · simp only [eclicRead, truncateTo, if_true, (split4 _ _ _ _).2, if_neg (show ¬ (2 = 1) by decide)]
  · rfl

/-! ## Writing -/

theorem sourceAt_setSource (e : Eclic) (i j : Nat) (q : Source) (h : i < e.sources.length) :
    sourceAt (setSource i q e) j = if i = j then q else sourceAt e j := by
  simp only [sourceAt, setSource, List.getD_eq_getElem?_getD, List.getElem?_set]
  by_cases hj : i = j
  · rw [if_pos hj, if_pos hj, if_pos h]; rfl
  · rw [if_neg hj, if_neg hj]

theorem eclicWriteByte_nlbits (c : Config) (k : Nat) (b : Byte) (e : Eclic) :
    (eclicWriteByte c k b e).nlbits = if k = 0 then b.extractLsb' 1 4 else e.nlbits := by
  unfold eclicWriteByte setSource
  (repeat' split) <;> rfl

theorem eclicWriteByte_mth (c : Config) (k : Nat) (b : Byte) (e : Eclic) :
    (eclicWriteByte c k b e).mth = if k = 0xB then b else e.mth := by
  unfold eclicWriteByte setSource
  (repeat' split) <;> first | rfl | omega

theorem eclicWriteByte_length (c : Config) (k : Nat) (b : Byte) (e : Eclic) :
    (eclicWriteByte c k b e).sources.length = e.sources.length := by
  unfold eclicWriteByte setSource
  (repeat' split) <;> simp

theorem eclicWriteByte_sourceAt {c : Config} {e : Eclic} (h : e.sources.length = c.numInterrupt) (k : Nat) (b : Byte)
    (j : Nat) : sourceAt (eclicWriteByte c k b e) j =
      if 0x1000 + 4 * j ≤ k ∧ k < 0x1004 + 4 * j ∧ sourceExists c j = true then
        sourceWriteByte c (k - 0x1000 - 4 * j) b (sourceAt e j) else sourceAt e j := by
  unfold eclicWriteByte
  split
  · rw [if_neg (by omega)]; rfl
  · split
    · rw [if_neg (by omega)]; rfl
    · split
      · split
        · next hx =>
          rw [sourceAt_setSource _ _ _ _ (by rw [h]; exact lt_of_sourceExists hx)]
          by_cases hj : (k - 0x1000) / 4 = j
          · rw [if_pos hj, if_pos ⟨by omega, by omega, by rw [← hj]; exact hx⟩, hj,
              show (k - 0x1000) % 4 = k - 0x1000 - 4 * j by omega]
          · rw [if_neg hj, if_neg (by omega)]
        · next hx =>
          rw [if_neg]
          rintro ⟨h1, h2, h3⟩
          rw [show (k - 0x1000) / 4 = j by omega] at hx
          exact hx h3
      · rw [if_neg (by omega)]

/-- One pass over the bytes of a store, seen at a value `get` that only the write of byte `r` changes, to what `f` makes of
the byte and the old value; `P` holds along the way. -/
theorem foldl_eclicWriteIf {α : Type} {c : Config} (get : Eclic → α) (r : Nat) (f : Byte → α → α) (P : Eclic → Prop)
    (sel : Nat → Bool)
    (h : ∀ e k b, P e → sel k = true → P (eclicWriteByte c k b e) ∧
      get (eclicWriteByte c k b e) = if k = r then f b (get e) else get e)
    (k : Nat) (v : Word) (n : Nat) (e : Eclic) (he : P e) :
    P ((List.range n).foldl (eclicWriteIf sel c k v) e) ∧
    get ((List.range n).foldl (eclicWriteIf sel c k v) e) =
      if sel r = true then (storedByte k n v r).elim (get e) (fun b => f b (get e)) else get e := by
  induction n with
  | zero =>
    refine ⟨he, ?_⟩
    have : storedByte k 0 v r = none := if_neg (by omega)
    rw [this]
    exact (ite_self _).symm
  | succ n ih =>
    obtain ⟨ih1, ih2⟩ := ih
    rw [List.range_succ, List.foldl_append]
    simp only [List.foldl_cons, List.foldl_nil]
    generalize List.foldl (eclicWriteIf sel c k v) e (List.range n) = u at ih1 ih2
    unfold eclicWriteIf
    by_cases hs : sel (k + n) = true
    · rw [if_pos hs]
      obtain ⟨h1, h2⟩ := h u (k + n) (byteOf v n) ih1 hs
      refine ⟨h1, ?_⟩
      rw [h2, ih2]
      by_cases hr : k + n = r
      · subst hr
        rw [if_pos rfl, if_pos hs, if_pos hs, storedByte, if_neg (by omega), storedByte, if_pos (by omega),
          show k + n - k = n by omega]
        rfl
      · rw [if_neg hr]
        have : storedByte k (n + 1) v r = storedByte k n v r := by
          unfold storedByte
          by_cases hc : k ≤ r ∧ r < k + n
          · rw [if_pos hc, if_pos (by omega)]
          · rw [if_neg hc, if_neg (by omega)]
        rw [this]
    · rw [if_neg hs]
      refine ⟨ih1, ?_⟩
      rw [ih2]
      by_cases hr : k + n = r
      · rw [← hr, if_neg hs, if_neg hs]
      · have : storedByte k (n + 1) v r = storedByte k n v r := by
          unfold storedByte
          by_cases hc : k ≤ r ∧ r < k + n
          · rw [if_pos hc, if_pos (by omega)]
          · rw [if_neg hc, if_neg (by omega)]
        rw [this]

/-- A store to the ECLIC, seen at a value that only the write of byte `r` changes, whatever the other registers hold. -/
theorem eclicWrite_at {α : Type} {c : Config} (get : Eclic → α) (r : Nat) (f : Byte → α → α)
    (h : ∀ e k b, e.sources.length = c.numInterrupt →
      get (eclicWriteByte c k b e) = if k = r then f b (get e) else get e)
    (k n : Nat) (v : Word) {e : Eclic} (he : e.sources.length = c.numInterrupt) :
    get (eclicWrite c k n v e) = (storedByte k n v r).elim (get e) (fun b => f b (get e)) := by
  have hs : ∀ sel : Nat → Bool, ∀ e k b, e.sources.length = c.numInterrupt → sel k = true →
      (eclicWriteByte c k b e).sources.length = c.numInterrupt ∧
      get (eclicWriteByte c k b e) = if k = r then f b (get e) else get e :=
    fun sel e k b he _ => ⟨by rw [eclicWriteByte_length, he], h e k b he⟩
  obtain ⟨p1, p2⟩ := foldl_eclicWriteIf get r f _ isAttrByte (hs _) k v n e he
  obtain ⟨-, q2⟩ := foldl_eclicWriteIf get r f _ (fun o => !isAttrByte o) (hs _) k v n _ p1
  unfold eclicWrite
  rw [q2, p2]
  cases isAttrByte r <;> simp

/-- The trig that decides whether IP is written is the one the store leaves. -/
theorem eclicWrite_ip {c : Config} {j : Nat} (hj : sourceExists c j = true) (k n : Nat) (v : Word) {e : Eclic}
    (he : e.sources.length = c.numInterrupt) :
    (sourceAt (eclicWrite c k n v e) j).ip = if (sourceAt (eclicWrite c k n v e) j).trig.getLsbD 0 then
      (storedByte k n v (0x1000 + 4 * j)).elim (sourceAt e j).ip (fun b => b.getLsbD 0) else (sourceAt e j).ip := by
  have attr : isAttrByte (0x1000 + 4 * j) = false := by
    rw [isAttrByte, Bool.and_eq_false_iff, decide_eq_false_iff_not, decide_eq_false_iff_not]
    exact .inr (by omega)
  obtain ⟨p1, p2⟩ := foldl_eclicWriteIf (fun e => (sourceAt e j).ip) (0x1000 + 4 * j)
    (fun b old => if (sourceAt e j).trig.getLsbD 0 then b.getLsbD 0 else old) (fun e => e.sources.length = c.numInterrupt)
    isAttrByte (c := c) (by
      intro e k b he hk
      refine ⟨by rw [eclicWriteByte_length, he], ?_⟩
      have hne : k ≠ 0x1000 + 4 * j := by rintro rfl; rw [attr] at hk; cases hk
      rw [if_neg hne]
      simp only [eclicWriteByte_sourceAt he]
      split
      · unfold sourceWriteByte
        (repeat' split) <;> first | rfl | omega
      · rfl) k v n e he
  rw [if_neg (by simp [attr])] at p2
  unfold eclicWrite
  generalize List.foldl (eclicWriteIf isAttrByte c k v) e (List.range n) = u at p1 p2
  obtain ⟨⟨-, q1⟩, q2⟩ := foldl_eclicWriteIf (fun e => (sourceAt e j).ip) (0x1000 + 4 * j)
    (fun b old => if (sourceAt u j).trig.getLsbD 0 then b.getLsbD 0 else old)
    (fun e => e.sources.length = c.numInterrupt ∧ (sourceAt e j).trig = (sourceAt u j).trig)
    (fun o => !isAttrByte o) (c := c) (by
      intro e k b he hk
      refine ⟨⟨by rw [eclicWriteByte_length, he.1], ?_⟩, ?_⟩
      · rw [eclicWriteByte_sourceAt he.1]
        split
        · next hc =>
          unfold sourceWriteByte
          have : k - 0x1000 - 4 * j ≠ 2 := by
            intro h2
            have : isAttrByte k = true := by
              rw [isAttrByte, Bool.and_eq_true, decide_eq_true_eq, decide_eq_true_eq]
              omega
            simp [this] at hk
          (repeat' split) <;> exact he.2
        · exact he.2
      · simp only [eclicWriteByte_sourceAt he.1]
        by_cases hr : k = 0x1000 + 4 * j
        · rw [if_pos hr, if_pos ⟨by omega, by omega, hj⟩, show k - 0x1000 - 4 * j = 0 by omega]
          simp only [sourceWriteByte, if_true, he.2]
          split <;> rfl
        · rw [if_neg hr]
          split
          · unfold sourceWriteByte
            (repeat' split) <;> first | rfl | omega
          · rfl) k v n u ⟨p1, rfl⟩
  rw [if_pos (by simp [attr])] at q2
  rw [q2, q1, p2]
  cases storedByte k n v (0x1000 + 4 * j) <;> simp

/-- Everything a store to the ECLIC does. -/
theorem eclicWrite_stored {c : Config} {e : Eclic} (he : e.sources.length = c.numInterrupt) (k n : Nat) (v : Word) :
    EclicStored c e (eclicWrite c k n v e) k n v where
  nlbits := eclicWrite_at (fun e => e.nlbits) 0 (fun b _ => b.extractLsb' 1 4)
    (fun e k b _ => eclicWriteByte_nlbits c k b e) k n v he
  mth := eclicWrite_at (fun e => e.mth) 0xB (fun b _ => b) (fun e k b _ => eclicWriteByte_mth c k b e) k n v he
  count := by
    have := eclicWrite_at (c := c) (fun e => e.sources.length) 0 (fun _ l => l)
      (fun e k b _ => by rw [eclicWriteByte_length, ite_self]) k n v he
    rw [this]; cases storedByte k n v 0 <;> rfl
  ip j hj := eclicWrite_ip hj k n v he
  ie j hj := eclicWrite_at (fun e => (sourceAt e j).ie) (0x1001 + 4 * j) (fun b _ => b.getLsbD 0) (fun e k b h => by
    simp only [eclicWriteByte_sourceAt h, sourceWriteByte, hj, and_true]
    (repeat' split) <;> first | rfl | omega) k n v he
  trig j hj := eclicWrite_at (fun e => (sourceAt e j).trig) (0x1002 + 4 * j) (fun b _ => b.extractLsb' 1 2)
    (fun e k b h => by
      simp only [eclicWriteByte_sourceAt h, sourceWriteByte, hj, and_true]
      (repeat' split) <;> first | rfl | omega) k n v he
  shv j hj := eclicWrite_at (fun e => (sourceAt e j).shv) (0x1002 + 4 * j) (fun b _ => b.getLsbD 0)
    (fun e k b h => by
      simp only [eclicWriteByte_sourceAt h, sourceWriteByte, hj, and_true]
      (repeat' split) <;> first | rfl | omega) k n v he
  ctl j m hj := eclicWrite_at (fun e => (sourceAt e j).ctl.getLsbD m) (0x1003 + 4 * j)
    (fun b _ => if m < 8 - c.clicIntCtlBits then false else b.getLsbD m) (fun e k b h => by
      simp only [eclicWriteByte_sourceAt h, sourceWriteByte, hj, and_true]
      (repeat' split) <;> first
        | rfl
        | omega
        | (simp only [BitVec.getLsbD_and, BitVec.getLsbD_not, getLsbD_onesLow]
           by_cases h8 : m < 8
           · simp [*]
           · simp [h8, BitVec.getLsbD_of_ge b m (by omega)])) k n v he
  prev j := by
    have := eclicWrite_at (c := c) (fun e => (sourceAt e j).prev) 0 (fun _ l => l) (fun e k b h => by
      rw [ite_self]
      simp only [eclicWriteByte_sourceAt h, sourceWriteByte]
      (repeat' split) <;> rfl) k n v he
    rw [this]; cases storedByte k n v 0 <;> rfl
  absent j hj := by
    have := eclicWrite_at (c := c) (fun e => sourceAt e j) 0 (fun _ l => l) (fun e k b h => by
      rw [ite_self, eclicWriteByte_sourceAt h, if_neg (by simp [hj])]) k n v he
    rw [this]; cases storedByte k n v 0 <;> rfl

end Sys2Proof.Machine
end

