-- ==== Sys2Proof/Laws/PerInstr.lean ====
section
/-! SUPPORT. For every instruction: the low two bits of its encoding announce its length (spec/30_encoding.md R161). -/

namespace Sys2Proof.Laws

/-- The low two bits are 11 in a 32-bit encoding and not 11 in a 16-bit one (R161). -/
def LengthBits.Statement (i : Instr) : Prop :=
  match encode i with
  | .word w => w.extractLsb' 0 2 = 3#2
  | .half h => isWide h = false

/-- A word that ends in an opcode ends in 11 if the opcode does. -/
theorem LengthBits.word {m : Nat} (x : BitVec m) (op : BitVec 7) (h : op.extractLsb' 0 2 = 3#2) :
    (x ++ op).extractLsb' 0 2 = 3#2 := by rw [lowBits_append, h]

/-- A parcel that ends in a quadrant other than 11 is not wide. -/
theorem LengthBits.half (x : BitVec 14) (op : BitVec 2) (h : (op == 3#2) = false) :
    isWide (x ++ op) = false := by
  unfold isWide; rw [extract_append_low x op 0 2 (by decide), extract_all, h]

theorem LengthBits.lui : ∀ x0 x1, LengthBits.Statement (.lui x0 x1) := by
  intros; exact LengthBits.word _ _ (by decide)

theorem LengthBits.auipc : ∀ x0 x1, LengthBits.Statement (.auipc x0 x1) := by
  intros; exact LengthBits.word _ _ (by decide)

theorem LengthBits.jal : ∀ x0 x1, LengthBits.Statement (.jal x0 x1) := by
  intros; exact LengthBits.word _ _ (by decide)

theorem LengthBits.jalr : ∀ x0 x1 x2, LengthBits.Statement (.jalr x0 x1 x2) := by
  intros; exact LengthBits.word _ _ (by decide)

theorem LengthBits.beq : ∀ x0 x1 x2, LengthBits.Statement (.beq x0 x1 x2) := by
  intros; exact LengthBits.word _ _ (by decide)

theorem LengthBits.bne : ∀ x0 x1 x2, LengthBits.Statement (.bne x0 x1 x2) := by
  intros; exact LengthBits.word _ _ (by decide)

theorem LengthBits.blt : ∀ x0 x1 x2, LengthBits.Statement (.blt x0 x1 x2) := by
  intros; exact LengthBits.word _ _ (by decide)

theorem LengthBits.bge : ∀ x0 x1 x2, LengthBits.Statement (.bge x0 x1 x2) := by
  intros; exact LengthBits.word _ _ (by decide)

theorem LengthBits.bltu : ∀ x0 x1 x2, LengthBits.Statement (.bltu x0 x1 x2) := by
  intros; exact LengthBits.word _ _ (by decide)

theorem LengthBits.bgeu : ∀ x0 x1 x2, LengthBits.Statement (.bgeu x0 x1 x2) := by
  intros; exact LengthBits.word _ _ (by decide)

theorem LengthBits.lb : ∀ x0 x1 x2, LengthBits.Statement (.lb x0 x1 x2) := by
  intros; exact LengthBits.word _ _ (by decide)

theorem LengthBits.lh : ∀ x0 x1 x2, LengthBits.Statement (.lh x0 x1 x2) := by
  intros; exact LengthBits.word _ _ (by decide)

theorem LengthBits.lw : ∀ x0 x1 x2, LengthBits.Statement (.lw x0 x1 x2) := by
  intros; exact LengthBits.word _ _ (by decide)

theorem LengthBits.lbu : ∀ x0 x1 x2, LengthBits.Statement (.lbu x0 x1 x2) := by
  intros; exact LengthBits.word _ _ (by decide)

theorem LengthBits.lhu : ∀ x0 x1 x2, LengthBits.Statement (.lhu x0 x1 x2) := by
  intros; exact LengthBits.word _ _ (by decide)

theorem LengthBits.sb : ∀ x0 x1 x2, LengthBits.Statement (.sb x0 x1 x2) := by
  intros; exact LengthBits.word _ _ (by decide)

theorem LengthBits.sh : ∀ x0 x1 x2, LengthBits.Statement (.sh x0 x1 x2) := by
  intros; exact LengthBits.word _ _ (by decide)

theorem LengthBits.sw : ∀ x0 x1 x2, LengthBits.Statement (.sw x0 x1 x2) := by
  intros; exact LengthBits.word _ _ (by decide)

theorem LengthBits.addi : ∀ x0 x1 x2, LengthBits.Statement (.addi x0 x1 x2) := by
  intros; exact LengthBits.word _ _ (by decide)

theorem LengthBits.slti : ∀ x0 x1 x2, LengthBits.Statement (.slti x0 x1 x2) := by
  intros; exact LengthBits.word _ _ (by decide)

theorem LengthBits.sltiu : ∀ x0 x1 x2, LengthBits.Statement (.sltiu x0 x1 x2) := by
  intros; exact LengthBits.word _ _ (by decide)

theorem LengthBits.xori : ∀ x0 x1 x2, LengthBits.Statement (.xori x0 x1 x2) := by
  intros; exact LengthBits.word _ _ (by decide)

theorem LengthBits.ori : ∀ x0 x1 x2, LengthBits.Statement (.ori x0 x1 x2) := by
  intros; exact LengthBits.word _ _ (by decide)

theorem LengthBits.andi : ∀ x0 x1 x2, LengthBits.Statement (.andi x0 x1 x2) := by
  intros; exact LengthBits.word _ _ (by decide)

theorem LengthBits.slli : ∀ x0 x1 x2, LengthBits.Statement (.slli x0 x1 x2) := by
  intros; exact LengthBits.word _ _ (by decide)

theorem LengthBits.srli : ∀ x0 x1 x2, LengthBits.Statement (.srli x0 x1 x2) := by
  intros; exact LengthBits.word _ _ (by decide)

theorem LengthBits.srai : ∀ x0 x1 x2, LengthBits.Statement (.srai x0 x1 x2) := by
  intros; exact LengthBits.word _ _ (by decide)

theorem LengthBits.add : ∀ x0 x1 x2, LengthBits.Statement (.add x0 x1 x2) := by
  intros; exact LengthBits.word _ _ (by decide)

theorem LengthBits.sub : ∀ x0 x1 x2, LengthBits.Statement (.sub x0 x1 x2) := by
  intros; exact LengthBits.word _ _ (by decide)

theorem LengthBits.sll : ∀ x0 x1 x2, LengthBits.Statement (.sll x0 x1 x2) := by
  intros; exact LengthBits.word _ _ (by decide)

theorem LengthBits.slt : ∀ x0 x1 x2, LengthBits.Statement (.slt x0 x1 x2) := by
  intros; exact LengthBits.word _ _ (by decide)

theorem LengthBits.sltu : ∀ x0 x1 x2, LengthBits.Statement (.sltu x0 x1 x2) := by
  intros; exact LengthBits.word _ _ (by decide)

theorem LengthBits.xor : ∀ x0 x1 x2, LengthBits.Statement (.xor x0 x1 x2) := by
  intros; exact LengthBits.word _ _ (by decide)

theorem LengthBits.srl : ∀ x0 x1 x2, LengthBits.Statement (.srl x0 x1 x2) := by
  intros; exact LengthBits.word _ _ (by decide)

theorem LengthBits.sra : ∀ x0 x1 x2, LengthBits.Statement (.sra x0 x1 x2) := by
  intros; exact LengthBits.word _ _ (by decide)

theorem LengthBits.or : ∀ x0 x1 x2, LengthBits.Statement (.or x0 x1 x2) := by
  intros; exact LengthBits.word _ _ (by decide)

theorem LengthBits.and : ∀ x0 x1 x2, LengthBits.Statement (.and x0 x1 x2) := by
  intros; exact LengthBits.word _ _ (by decide)

theorem LengthBits.fence : ∀ x0 x1 x2 x3 x4, LengthBits.Statement (.fence x0 x1 x2 x3 x4) := by
  intros; exact LengthBits.word _ _ (by decide)

theorem LengthBits.fenceI : ∀ x0 x1 x2, LengthBits.Statement (.fenceI x0 x1 x2) := by
  intros; exact LengthBits.word _ _ (by decide)

theorem LengthBits.ecall : LengthBits.Statement .ecall := rfl

theorem LengthBits.ebreak : LengthBits.Statement .ebreak := rfl

theorem LengthBits.mret : LengthBits.Statement .mret := rfl

theorem LengthBits.wfi : LengthBits.Statement .wfi := rfl

theorem LengthBits.csrrw : ∀ x0 x1 x2, LengthBits.Statement (.csrrw x0 x1 x2) := by
  intros; exact LengthBits.word _ _ (by decide)

theorem LengthBits.csrrs : ∀ x0 x1 x2, LengthBits.Statement (.csrrs x0 x1 x2) := by
  intros; exact LengthBits.word _ _ (by decide)

theorem LengthBits.csrrc : ∀ x0 x1 x2, LengthBits.Statement (.csrrc x0 x1 x2) := by
  intros; exact LengthBits.word _ _ (by decide)

theorem LengthBits.csrrwi : ∀ x0 x1 x2, LengthBits.Statement (.csrrwi x0 x1 x2) := by
  intros; exact LengthBits.word _ _ (by decide)

theorem LengthBits.csrrsi : ∀ x0 x1 x2, LengthBits.Statement (.csrrsi x0 x1 x2) := by
  intros; exact LengthBits.word _ _ (by decide)

theorem LengthBits.csrrci : ∀ x0 x1 x2, LengthBits.Statement (.csrrci x0 x1 x2) := by
  intros; exact LengthBits.word _ _ (by decide)

theorem LengthBits.mul : ∀ x0 x1 x2, LengthBits.Statement (.mul x0 x1 x2) := by
  intros; exact LengthBits.word _ _ (by decide)

theorem LengthBits.mulh : ∀ x0 x1 x2, LengthBits.Statement (.mulh x0 x1 x2) := by
  intros; exact LengthBits.word _ _ (by decide)

theorem LengthBits.mulhsu : ∀ x0 x1 x2, LengthBits.Statement (.mulhsu x0 x1 x2) := by
  intros; exact LengthBits.word _ _ (by decide)

theorem LengthBits.mulhu : ∀ x0 x1 x2, LengthBits.Statement (.mulhu x0 x1 x2) := by
  intros; exact LengthBits.word _ _ (by decide)

theorem LengthBits.div : ∀ x0 x1 x2, LengthBits.Statement (.div x0 x1 x2) := by
  intros; exact LengthBits.word _ _ (by decide)

theorem LengthBits.divu : ∀ x0 x1 x2, LengthBits.Statement (.divu x0 x1 x2) := by
  intros; exact LengthBits.word _ _ (by decide)

theorem LengthBits.rem : ∀ x0 x1 x2, LengthBits.Statement (.rem x0 x1 x2) := by
  intros; exact LengthBits.word _ _ (by decide)

theorem LengthBits.remu : ∀ x0 x1 x2, LengthBits.Statement (.remu x0 x1 x2) := by
  intros; exact LengthBits.word _ _ (by decide)

theorem LengthBits.lrW : ∀ x0 x1 x2 x3, LengthBits.Statement (.lrW x0 x1 x2 x3) := by
  intros; exact LengthBits.word _ _ (by decide)

theorem LengthBits.scW : ∀ x0 x1 x2 x3 x4, LengthBits.Statement (.scW x0 x1 x2 x3 x4) := by
  intros; exact LengthBits.word _ _ (by decide)

theorem LengthBits.amoswapW : ∀ x0 x1 x2 x3 x4, LengthBits.Statement (.amoswapW x0 x1 x2 x3 x4) := by
  intros; exact LengthBits.word _ _ (by decide)

theorem LengthBits.amoaddW : ∀ x0 x1 x2 x3 x4, LengthBits.Statement (.amoaddW x0 x1 x2 x3 x4) := by
  intros; exact LengthBits.word _ _ (by decide)

theorem LengthBits.amoxorW : ∀ x0 x1 x2 x3 x4, LengthBits.Statement (.amoxorW x0 x1 x2 x3 x4) := by
  intros; exact LengthBits.word _ _ (by decide)

theorem LengthBits.amoandW : ∀ x0 x1 x2 x3 x4, LengthBits.Statement (.amoandW x0 x1 x2 x3 x4) := by
  intros; exact LengthBits.word _ _ (by decide)

theorem LengthBits.amoorW : ∀ x0 x1 x2 x3 x4, LengthBits.Statement (.amoorW x0 x1 x2 x3 x4) := by
  intros; exact LengthBits.word _ _ (by decide)

theorem LengthBits.amominW : ∀ x0 x1 x2 x3 x4, LengthBits.Statement (.amominW x0 x1 x2 x3 x4) := by
  intros; exact LengthBits.word _ _ (by decide)

theorem LengthBits.amomaxW : ∀ x0 x1 x2 x3 x4, LengthBits.Statement (.amomaxW x0 x1 x2 x3 x4) := by
  intros; exact LengthBits.word _ _ (by decide)

theorem LengthBits.amominuW : ∀ x0 x1 x2 x3 x4, LengthBits.Statement (.amominuW x0 x1 x2 x3 x4) := by
  intros; exact LengthBits.word _ _ (by decide)

theorem LengthBits.amomaxuW : ∀ x0 x1 x2 x3 x4, LengthBits.Statement (.amomaxuW x0 x1 x2 x3 x4) := by
  intros; exact LengthBits.word _ _ (by decide)

theorem LengthBits.cAddi4spn : ∀ x0 x1, LengthBits.Statement (.cAddi4spn x0 x1) := by
  intros; exact LengthBits.half _ _ (by decide)

theorem LengthBits.cLw : ∀ x0 x1 x2, LengthBits.Statement (.cLw x0 x1 x2) := by
  intros; exact LengthBits.half _ _ (by decide)

theorem LengthBits.cSw : ∀ x0 x1 x2, LengthBits.Statement (.cSw x0 x1 x2) := by
  intros; exact LengthBits.half _ _ (by decide)

theorem LengthBits.cNop : ∀ x0, LengthBits.Statement (.cNop x0) := by
  intros; exact LengthBits.half _ _ (by decide)

theorem LengthBits.cAddi : ∀ x0 x1, LengthBits.Statement (.cAddi x0 x1) := by
  intros; exact LengthBits.half _ _ (by decide)

theorem LengthBits.cJal : ∀ x0, LengthBits.Statement (.cJal x0) := by
  intros; exact LengthBits.half _ _ (by decide)

theorem LengthBits.cLi : ∀ x0 x1, LengthBits.Statement (.cLi x0 x1) := by
  intros; exact LengthBits.half _ _ (by decide)

theorem LengthBits.cAddi16sp : ∀ x0, LengthBits.Statement (.cAddi16sp x0) := by
  intros; exact LengthBits.half _ _ (by decide)

theorem LengthBits.cLui : ∀ x0 x1, LengthBits.Statement (.cLui x0 x1) := by
  intros; exact LengthBits.half _ _ (by decide)

theorem LengthBits.cSrli : ∀ x0 x1, LengthBits.Statement (.cSrli x0 x1) := by
  intros; exact LengthBits.half _ _ (by decide)

theorem LengthBits.cSrai : ∀ x0 x1, LengthBits.Statement (.cSrai x0 x1) := by
  intros; exact LengthBits.half _ _ (by decide)

theorem LengthBits.cAndi : ∀ x0 x1, LengthBits.Statement (.cAndi x0 x1) := by
  intros; exact LengthBits.half _ _ (by decide)

theorem LengthBits.cSub : ∀ x0 x1, LengthBits.Statement (.cSub x0 x1) := by
  intros; exact LengthBits.half _ _ (by decide)

theorem LengthBits.cXor : ∀ x0 x1, LengthBits.Statement (.cXor x0 x1) := by
  intros; exact LengthBits.half _ _ (by decide)

theorem LengthBits.cOr : ∀ x0 x1, LengthBits.Statement (.cOr x0 x1) := by
  intros; exact LengthBits.half _ _ (by decide)

theorem LengthBits.cAnd : ∀ x0 x1, LengthBits.Statement (.cAnd x0 x1) := by
  intros; exact LengthBits.half _ _ (by decide)

theorem LengthBits.cJ : ∀ x0, LengthBits.Statement (.cJ x0) := by
  intros; exact LengthBits.half _ _ (by decide)

theorem LengthBits.cBeqz : ∀ x0 x1, LengthBits.Statement (.cBeqz x0 x1) := by
  intros; exact LengthBits.half _ _ (by decide)

theorem LengthBits.cBnez : ∀ x0 x1, LengthBits.Statement (.cBnez x0 x1) := by
  intros; exact LengthBits.half _ _ (by decide)

theorem LengthBits.cSlli : ∀ x0 x1, LengthBits.Statement (.cSlli x0 x1) := by
  intros; exact LengthBits.half _ _ (by decide)

theorem LengthBits.cLwsp : ∀ x0 x1, LengthBits.Statement (.cLwsp x0 x1) := by
  intros; exact LengthBits.half _ _ (by decide)

theorem LengthBits.cJr : ∀ x0, LengthBits.Statement (.cJr x0) := by
  intros; exact LengthBits.half _ _ (by decide)

theorem LengthBits.cMv : ∀ x0 x1, LengthBits.Statement (.cMv x0 x1) := by
  intros; exact LengthBits.half _ _ (by decide)

theorem LengthBits.cEbreak : LengthBits.Statement .cEbreak := rfl

theorem LengthBits.cJalr : ∀ x0, LengthBits.Statement (.cJalr x0) := by
  intros; exact LengthBits.half _ _ (by decide)

theorem LengthBits.cAdd : ∀ x0 x1, LengthBits.Statement (.cAdd x0 x1) := by
  intros; exact LengthBits.half _ _ (by decide)

theorem LengthBits.cSwsp : ∀ x0 x1, LengthBits.Statement (.cSwsp x0 x1) := by
  intros; exact LengthBits.half _ _ (by decide)

end Sys2Proof.Laws
end

