-- ==== Sys2Proof/Laws/Step.lean ====
section
/-! SUPPORT. The choices of one step, said once: what sampling keeps, when the hart is awake, what is due at a step
boundary, and what a fetch or a vector read gives. -/

namespace Sys2Proof.Machine

/-! ## Sampling -/

/-- A byte written by another bus master: what it can change (R141). -/
theorem busWrite_eq (s : State) (w : Word × Byte) :
    busWrite s w = { s with
      mem := (busWrite s w).mem, stale := (busWrite s w).stale, reservation := (busWrite s w).reservation } := by
  unfold busWrite
  split
  · rw [breakReservation_eq]; rfl
  · rfl

/-- The writes of other bus masters change memory, the window of R143 and the reservation only. -/
theorem busWrites_eq (ws : List (Word × Byte)) (s : State) :
    ws.foldl busWrite s = { s with
      mem := (ws.foldl busWrite s).mem, stale := (ws.foldl busWrite s).stale,
      reservation := (ws.foldl busWrite s).reservation } := by
  induction ws generalizing s with
  | nil => rfl
  | cons w ws ih =>
    rw [List.foldl_cons, ih]
    have := busWrite_eq s w
    generalize busWrite s w = t at this
    rw [this]

/-- One such write: memory stays canonical, and so does the window. -/
theorem busWrite_wf {s : State} (hm : s.mem.wf = true) (hs : s.stale.wf = true) (w : Word × Byte) :
    (busWrite s w).mem.wf = true ∧ (busWrite s w).stale.wf = true := by
  unfold busWrite
  split
  · rw [breakReservation_eq]; exact ⟨storeByte_memWf hm w.1 w.2, storeByte_staleWf hs w.1 w.2⟩
  · exact ⟨hm, hs⟩

/-- One such write changes its byte if it is in RAM, and no other. -/
theorem byteAt_busWrite {s : State} (hm : s.mem.wf = true) (w : Word × Byte) (a : Word) :
    byteAt (busWrite s w) a = if a = w.1 ∧ placeOf s.cfg a = .ram then w.2 else byteAt s a := by
  unfold busWrite
  split
  · next h =>
    rw [breakReservation_eq]
    show byteAt (storeByte w.1 w.2 s) a = _
    rw [byteAt_storeByte hm]
    by_cases ha : a = w.1
    · subst ha; simp [h]
    · simp [ha]
  · next h =>
    rw [if_neg]
    rintro ⟨rfl, h'⟩
    exact h h'

/-- One such write leaves every byte's contents from before the window as they were. -/
theorem fetchSees_busWrite {s : State} (hm : s.mem.wf = true) (hs : s.stale.wf = true) (w : Word × Byte) (a : Word) :
    fetchSees (busWrite s w) true a = fetchSees s true a := by
  unfold busWrite
  split
  · rw [breakReservation_eq]; exact fetchSees_storeByte hm hs _ _ a
  · rfl

/-- One such write ends a reservation whose word holds its byte, if that is in RAM. -/
theorem reservation_busWrite (s : State) (w : Word × Byte) :
    (busWrite s w).reservation = if placeOf s.cfg w.1 = .ram then reservationAfter s w.1 1 else s.reservation := by
  unfold busWrite
  split
  · next h => rw [breakReservation_eq, if_pos h]; rfl
  · next h => rw [if_neg h]

/-! ### The cycle counter -/

/-- The counter never falls. -/
theorem laterCount_ge (c d : BitVec 64) : c.toNat ≤ (laterCount c d).toNat := by
  have h : d.toNat % (2 ^ 64 - c.toNat) < 2 ^ 64 - c.toNat := Nat.mod_lt _ (by omega)
  unfold laterCount
  rw [BitVec.toNat_add, BitVec.toNat_ofNat, Nat.mod_eq_of_lt (by omega : d.toNat % (2 ^ 64 - c.toNat) < 2 ^ 64),
    Nat.mod_eq_of_lt (by omega)]
  omega

/-- Every value that is not smaller is among those it can take. -/
theorem laterCount_reaches {c v : BitVec 64} (h : c.toNat ≤ v.toNat) : laterCount c (v - c) = v := by
  have hd : (v - c).toNat = v.toNat - c.toNat := BitVec.toNat_sub_of_le h
  unfold laterCount
  rw [hd, Nat.mod_eq_of_lt (by omega), ← hd, BitVec.ofNat_toNat, BitVec.setWidth_eq, BitVec.add_comm,
    BitVec.sub_add_cancel]

/-- `advanceCycles` lets `mcycle` stand or grow, as `mcountinhibit.CY` says (R49, R55). -/
theorem advanceCycles_mcycle (s : State) :
    s.csr.mcycle.toNat ≤ (advanceCycles s).csr.mcycle.toNat ∧
    (s.csr.inhibitCy = true → (advanceCycles s).csr.mcycle = s.csr.mcycle) := by
  unfold advanceCycles
  by_cases h : s.csr.inhibitCy = true
  · rw [if_pos h]; exact ⟨Nat.le_refl _, fun _ => rfl⟩
  · rw [if_neg h]; exact ⟨laterCount_ge _ _, fun h' => absurd h' h⟩

/-- Sampling neither wakes the hart nor puts it to sleep. -/
@[simp] theorem sampleInputs_sleeping (s : State) : (sampleInputs s).sleeping = s.sleeping := by
  show (((advanceCycles (takeInputs s)).now.busWrites.foldl busWrite (advanceCycles (takeInputs s)))).sleeping = _
  rw [busWrites_eq]; simp

/-! ## Sleep -/

/-- `wakeCondition` decides R508. -/
theorem wakeCondition_iff (s : State) : wakeCondition s = true ↔ WakeCondition s := by
  unfold wakeCondition WakeCondition
  simp only [Bool.or_eq_true, Bool.and_eq_true, Bool.not_eq_true', Option.isSome_iff_exists, or_assoc, and_assoc]

/-- An awake hart goes on at the step boundary. -/
theorem step_awake {s : State} (h : Awake s) : step s = stepAwake (atBoundary s) := by
  show hartStep s = _
  unfold hartStep
  rw [if_neg]
  · rfl
  · rw [sampleInputs_sleeping]
    rcases h with h | h
    · simp [h]
    · simp [(wakeCondition_iff _).2 h]

/-! ## What is due -/

theorem nmiTakeable_iff (b : State) : nmiTakeable b = true ↔ NmiDue b := by
  unfold nmiTakeable NmiDue; simp

theorem busErrorTakeable_iff (b : State) :
    (b.cfg.busErrorAsException && b.busErr.pending) = true ↔ BusErrorDue b := by
  unfold BusErrorDue; simp

theorem takeableInterrupt_iff (b : State) (r : Candidate) : takeableInterrupt b = some r ↔ RequestDue b r := by
  unfold takeableInterrupt RequestDue interruptsEnabled
  cases he : eclicRequest b.cfg b.eclic with
  | none => simp
  | some q =>
    simp only [BitVec.ult, Bool.and_eq_true, Bool.or_eq_true, decide_eq_true_eq, beq_iff_eq, Option.some.injEq]
    constructor
    · intro h
      split at h
      · next hc => cases h; exact ⟨rfl, hc.2, hc.1⟩
      · cases h
    · rintro ⟨rfl, h1, h2⟩; rw [if_pos ⟨h2, h1⟩]

/-- At a boundary where nothing is due, an awake hart fetches and executes. -/
theorem step_executes {s : State} (ha : Awake s) (hd : NothingDue (atBoundary s)) :
    step s = fetchExecute (atBoundary s) := by
  rw [step_awake ha]; unfold stepAwake
  rw [if_neg (fun h => hd.noNmi ((nmiTakeable_iff _).1 h)),
    if_neg (fun h => hd.noBusError ((busErrorTakeable_iff _).1 h))]
  cases h : takeableInterrupt (atBoundary s) with
  | none => rfl
  | some r => exact absurd ((takeableInterrupt_iff _ _).1 h) (hd.noRequest r)

/-- At a boundary where interrupt `r` is due, an awake hart enters it, or stops in the default interrupt mode. -/
theorem step_interrupt {s : State} {r : Candidate} (ha : Awake s) (hd : InterruptDue (atBoundary s) r) :
    step s = if eclicMode (atBoundary s) then .next (interruptEntry r (atBoundary s)) else .fault .defaultInterruptMode
    := by
  rw [step_awake ha]; unfold stepAwake
  rw [if_neg (fun h => hd.noNmi ((nmiTakeable_iff _).1 h)),
    if_neg (fun h => hd.noBusError ((busErrorTakeable_iff _).1 h)), (takeableInterrupt_iff _ _).2 hd.request]

/-! ## Fetch and vector read -/

theorem fetchable_iff (s : State) (err : Bool) (a : Word) : fetchable s err a = true ↔ Answered s err a := by
  unfold fetchable Answered inMemory
  cases placeOf s.cfg a <;> simp

theorem vectorRead_of_canRead {s : State} {i : Nat} (h : CanReadVector s (vectorAddress s i)) :
    vectorRead s i = some (vectorWord s (vectorAddress s i)) := by
  unfold vectorRead vectorWord
  rcases h with (h | h) | ⟨h, h'⟩ <;> rw [h]
  · rfl
  · rfl
  · simp only [h']; rfl

theorem vectorRead_of_not_canRead {s : State} {i : Nat} (h : ¬ CanReadVector s (vectorAddress s i)) :
    vectorRead s i = none := by
  unfold vectorRead
  unfold CanReadVector Answered inMemory at h
  generalize placeOf s.cfg (vectorAddress s i) = p at h ⊢
  cases p <;> simp_all

/-- A byte fetched is the one U44 lets it be. -/
theorem fetchByte_eq (s : State) (old : Bool) (a : Word) : fetchByte s old a = fetchSees s old a := by
  unfold fetchByte fetchSees
  cases old <;> cases s.stale.read a.toNat <;> rfl

/-- Where fetches see the current bytes, that is the byte in memory. -/
theorem fetchSees_current {s : State} (h : FetchesCurrent s) (a : Word) :
    fetchSees s s.now.fetchOld a = byteAt s a ∧ fetchSees s s.now.fetchOldHi a = byteAt s a := by
  rw [← fetchByte_eq, ← fetchByte_eq]
  unfold fetchByte
  rcases h with ⟨h1, h2⟩ | h
  · simp [h1, h2]
  · simp [h, Stale.read]

theorem fetchParcel_of_answered {s : State} {err : Bool} {a : Word} (h : Answered s err a) (old : Bool) (d : Half) :
    fetchParcel s err old d a = .ok (fetchedHalf s old d a) := by
  unfold fetchParcel
  rw [if_pos ((fetchable_iff s err a).2 h)]
  unfold parcelAt fetchedHalf
  rw [fetchByte_eq, fetchByte_eq]
  rcases h with (hp | hp) | ⟨hp, -⟩ <;> rw [hp] <;> rfl

theorem fetchParcel_fails {s : State} {err : Bool} {a : Word} (h : ¬ Answered s err a) (old : Bool) (d : Half) :
    fetchParcel s err old d a = .error a := by
  unfold fetchParcel; rw [if_neg (fun hf => h ((fetchable_iff s err a).1 hf))]

/-- The four things a fetch can do (R128). -/
theorem fetch_half {s : State} (hc : CanFetchLow s) (hw : isWide (fetchedLow s) = false) :
    fetch s = .ok (.half (fetchedLow s)) := by
  unfold fetch
  rw [fetchParcel_of_answered hc]
  exact if_neg (by rw [← Bool.not_eq_true] at hw; exact hw)

theorem fetch_word {s : State} (hc : CanFetchLow s) (hw : isWide (fetchedLow s) = true) (hc' : CanFetchHigh s) :
    fetch s = .ok (.word (fetchedHigh s ++ fetchedLow s)) := by
  unfold fetch
  rw [fetchParcel_of_answered hc, fetchParcel_of_answered hc']
  exact if_pos hw

theorem fetch_fails_low {s : State} (hc : ¬ CanFetchLow s) : fetch s = .error s.pc := by
  unfold fetch
  rw [fetchParcel_fails hc]

theorem fetch_fails_high {s : State} (hc : CanFetchLow s) (hw : isWide (fetchedLow s) = true) (hc' : ¬ CanFetchHigh s) :
    fetch s = .error (s.pc + 2#32) := by
  unfold fetch
  rw [fetchParcel_of_answered hc, fetchParcel_fails hc']
  exact if_pos hw

end Sys2Proof.Machine
end

