-- ==== Sys2Proof/Tests/Slice0.lean ====
section
/-! SUPPORT. Tests: well-formedness, decoding of words written out from the spec's formats, one step on the spec's test
vectors, and states that meet the hypotheses of the statements. -/

namespace Sys2Proof.Tests

open Sys2Proof Sys2Proof.Machine

/-! ## Well-formedness

One ill-formed term for each check of spec/30_encoding.md R173, which the check refuses. -/

theorem test_wf_cAddi4spn_zero : (Instr.cAddi4spn 0#3 0#8).wellFormed = false := by decide
theorem test_wf_cAddi_rd_zero : (Instr.cAddi 0#5 1#6).wellFormed = false := by decide
theorem test_wf_cAddi16sp_zero : (Instr.cAddi16sp 0#6).wellFormed = false := by decide
theorem test_wf_cLui_rd_two : (Instr.cLui 2#5 1#6).wellFormed = false := by decide
theorem test_wf_cLui_zero : (Instr.cLui 10#5 0#6).wellFormed = false := by decide
theorem test_wf_cLwsp_rd_zero : (Instr.cLwsp 0#5 1#6).wellFormed = false := by decide
theorem test_wf_cJr_zero : (Instr.cJr 0#5).wellFormed = false := by decide
theorem test_wf_cMv_rs2_zero : (Instr.cMv 10#5 0#5).wellFormed = false := by decide
theorem test_wf_cJalr_zero : (Instr.cJalr 0#5).wellFormed = false := by decide
theorem test_wf_cAdd_rs2_zero : (Instr.cAdd 10#5 0#5).wellFormed = false := by decide

/-! ## Reserved encodings

Words and parcels of spec/96_test_vectors_system.md section 4.3 that are no instruction. -/

theorem test_reserved_words_1 :
    decode32 0x00200073#32 = none ∧ decode32 0x10200073#32 = none ∧
      decode32 0x12000073#32 = none ∧ decode32 0x000000F3#32 = none := by
  refine ⟨?_, ?_, ?_, ?_⟩ <;> decide

theorem test_reserved_words_2 :
    decode32 0x00004073#32 = none ∧ decode32 0x02059513#32 = none ∧
      decode32 0x4205D513#32 = none ∧ decode32 0x0005B503#32 = none := by
  refine ⟨?_, ?_, ?_, ?_⟩ <;> decide

theorem test_reserved_words_3 :
    decode32 0x0005E503#32 = none ∧ decode32 0x00A5B023#32 = none ∧
      decode32 0x0005851B#32 = none ∧ decode32 0x0005A507#32 = none := by
  refine ⟨?_, ?_, ?_, ?_⟩ <;> decide

theorem test_reserved_words_4 :
    decode32 0x00C58553#32 = none ∧ decode32 0x04C58533#32 = none ∧
      decode32 0x40C59533#32 = none ∧ decode32 0x00C5B52F#32 = none := by
  refine ⟨?_, ?_, ?_, ?_⟩ <;> decide

theorem test_reserved_words_5 :
    decode32 0x1015A52F#32 = none ∧ decode32 0x28C5A52F#32 = none ∧
      decode32 0x00B52463#32 = none ∧ decode32 0x000590E7#32 = none := by
  refine ⟨?_, ?_, ?_, ?_⟩ <;> decide

theorem test_reserved_words_6 :
    decode32 0x0000200F#32 = none ∧ decode32 0xFFFFFFFF#32 = none := by
  refine ⟨?_, ?_⟩ <;> decide

theorem test_reserved_parcels_1 :
    decode16 0x0000#16 = none ∧ decode16 0x0004#16 = none ∧
      decode16 0x2188#16 = none ∧ decode16 0x6188#16 = none := by
  refine ⟨?_, ?_, ?_, ?_⟩ <;> decide

theorem test_reserved_parcels_2 :
    decode16 0x8000#16 = none ∧ decode16 0xE188#16 = none ∧
      decode16 0x6101#16 = none ∧ decode16 0x6501#16 = none := by
  refine ⟨?_, ?_, ?_, ?_⟩ <;> decide

theorem test_reserved_parcels_3 :
    decode16 0x9101#16 = none ∧ decode16 0x1502#16 = none ∧
      decode16 0x9D0D#16 = none ∧ decode16 0x4002#16 = none := by
  refine ⟨?_, ?_, ?_, ?_⟩ <;> decide

theorem test_reserved_parcels_4 :
    decode16 0x8002#16 = none ∧ decode16 0x6502#16 = none ∧ decode16 0xE02A#16 = none := by
  refine ⟨?_, ?_, ?_⟩ <;> decide

/-! ## Decoding

Each word is written out field by field, most significant first, from its row of spec/opcode_table.json. -/

theorem test_decode_lui :
    decode32 (0b10000000000101100110#20 ++ 0b01010#5 ++ 0b0110111#7) =
      some (.lui 10#5 524646#20) := by decide

theorem test_decode_auipc :
    decode32 (0b10000000000101100110#20 ++ 0b01010#5 ++ 0b0010111#7) =
      some (.auipc 10#5 524646#20) := by decide

theorem test_decode_jal :
    decode32 (0b1#1 ++ 0b0010110111#10 ++ 0b1#1 ++ 0b01100110#8 ++ 0b01010#5 ++ 0b1101111#7) =
      some (.jal 10#5 734391#20) := by decide

theorem test_decode_jalr :
    decode32 (0b100101101110#12 ++ 0b10011#5 ++ 0b000#3 ++ 0b01010#5 ++ 0b1100111#7) =
      some (.jalr 10#5 19#5 2414#12) := by decide

theorem test_decode_beq :
    decode32 (0b1#1 ++ 0b001011#6 ++ 0b00111#5 ++ 0b10011#5 ++ 0b000#3 ++ 0b0111#4 ++ 0b1#1 ++ 0b1100011#7) =
      some (.beq 19#5 7#5 3255#12) := by decide

theorem test_decode_bne :
    decode32 (0b1#1 ++ 0b001011#6 ++ 0b00111#5 ++ 0b10011#5 ++ 0b001#3 ++ 0b0111#4 ++ 0b1#1 ++ 0b1100011#7) =
      some (.bne 19#5 7#5 3255#12) := by decide

theorem test_decode_blt :
    decode32 (0b1#1 ++ 0b001011#6 ++ 0b00111#5 ++ 0b10011#5 ++ 0b100#3 ++ 0b0111#4 ++ 0b1#1 ++ 0b1100011#7) =
      some (.blt 19#5 7#5 3255#12) := by decide

theorem test_decode_bge :
    decode32 (0b1#1 ++ 0b001011#6 ++ 0b00111#5 ++ 0b10011#5 ++ 0b101#3 ++ 0b0111#4 ++ 0b1#1 ++ 0b1100011#7) =
      some (.bge 19#5 7#5 3255#12) := by decide

theorem test_decode_bltu :
    decode32 (0b1#1 ++ 0b001011#6 ++ 0b00111#5 ++ 0b10011#5 ++ 0b110#3 ++ 0b0111#4 ++ 0b1#1 ++ 0b1100011#7) =
      some (.bltu 19#5 7#5 3255#12) := by decide

theorem test_decode_bgeu :
    decode32 (0b1#1 ++ 0b001011#6 ++ 0b00111#5 ++ 0b10011#5 ++ 0b111#3 ++ 0b0111#4 ++ 0b1#1 ++ 0b1100011#7) =
      some (.bgeu 19#5 7#5 3255#12) := by decide

theorem test_decode_lb :
    decode32 (0b100101101110#12 ++ 0b10011#5 ++ 0b000#3 ++ 0b01010#5 ++ 0b0000011#7) =
      some (.lb 10#5 19#5 2414#12) := by decide

theorem test_decode_lh :
    decode32 (0b100101101110#12 ++ 0b10011#5 ++ 0b001#3 ++ 0b01010#5 ++ 0b0000011#7) =
      some (.lh 10#5 19#5 2414#12) := by decide

theorem test_decode_lw :
    decode32 (0b100101101110#12 ++ 0b10011#5 ++ 0b010#3 ++ 0b01010#5 ++ 0b0000011#7) =
      some (.lw 10#5 19#5 2414#12) := by decide

theorem test_decode_lbu :
    decode32 (0b100101101110#12 ++ 0b10011#5 ++ 0b100#3 ++ 0b01010#5 ++ 0b0000011#7) =
      some (.lbu 10#5 19#5 2414#12) := by decide

theorem test_decode_lhu :
    decode32 (0b100101101110#12 ++ 0b10011#5 ++ 0b101#3 ++ 0b01010#5 ++ 0b0000011#7) =
      some (.lhu 10#5 19#5 2414#12) := by decide

theorem test_decode_sb :
    decode32 (0b1001011#7 ++ 0b00111#5 ++ 0b10011#5 ++ 0b000#3 ++ 0b01110#5 ++ 0b0100011#7) =
      some (.sb 7#5 19#5 2414#12) := by decide

theorem test_decode_sh :
    decode32 (0b1001011#7 ++ 0b00111#5 ++ 0b10011#5 ++ 0b001#3 ++ 0b01110#5 ++ 0b0100011#7) =
      some (.sh 7#5 19#5 2414#12) := by decide

theorem test_decode_sw :
    decode32 (0b1001011#7 ++ 0b00111#5 ++ 0b10011#5 ++ 0b010#3 ++ 0b01110#5 ++ 0b0100011#7) =
      some (.sw 7#5 19#5 2414#12) := by decide

theorem test_decode_addi :
    decode32 (0b100101101110#12 ++ 0b10011#5 ++ 0b000#3 ++ 0b01010#5 ++ 0b0010011#7) =
      some (.addi 10#5 19#5 2414#12) := by decide

theorem test_decode_slti :
    decode32 (0b100101101110#12 ++ 0b10011#5 ++ 0b010#3 ++ 0b01010#5 ++ 0b0010011#7) =
      some (.slti 10#5 19#5 2414#12) := by decide

theorem test_decode_sltiu :
    decode32 (0b100101101110#12 ++ 0b10011#5 ++ 0b011#3 ++ 0b01010#5 ++ 0b0010011#7) =
      some (.sltiu 10#5 19#5 2414#12) := by decide

theorem test_decode_xori :
    decode32 (0b100101101110#12 ++ 0b10011#5 ++ 0b100#3 ++ 0b01010#5 ++ 0b0010011#7) =
      some (.xori 10#5 19#5 2414#12) := by decide

theorem test_decode_ori :
    decode32 (0b100101101110#12 ++ 0b10011#5 ++ 0b110#3 ++ 0b01010#5 ++ 0b0010011#7) =
      some (.ori 10#5 19#5 2414#12) := by decide

theorem test_decode_andi :
    decode32 (0b100101101110#12 ++ 0b10011#5 ++ 0b111#3 ++ 0b01010#5 ++ 0b0010011#7) =
      some (.andi 10#5 19#5 2414#12) := by decide

theorem test_decode_slli :
    decode32 (0b0000000#7 ++ 0b11110#5 ++ 0b10011#5 ++ 0b001#3 ++ 0b01010#5 ++ 0b0010011#7) =
      some (.slli 10#5 19#5 30#5) := by decide

theorem test_decode_srli :
    decode32 (0b0000000#7 ++ 0b11110#5 ++ 0b10011#5 ++ 0b101#3 ++ 0b01010#5 ++ 0b0010011#7) =
      some (.srli 10#5 19#5 30#5) := by decide

theorem test_decode_srai :
    decode32 (0b0100000#7 ++ 0b11110#5 ++ 0b10011#5 ++ 0b101#3 ++ 0b01010#5 ++ 0b0010011#7) =
      some (.srai 10#5 19#5 30#5) := by decide

theorem test_decode_add :
    decode32 (0b0000000#7 ++ 0b00111#5 ++ 0b10011#5 ++ 0b000#3 ++ 0b01010#5 ++ 0b0110011#7) =
      some (.add 10#5 19#5 7#5) := by decide

theorem test_decode_sub :
    decode32 (0b0100000#7 ++ 0b00111#5 ++ 0b10011#5 ++ 0b000#3 ++ 0b01010#5 ++ 0b0110011#7) =
      some (.sub 10#5 19#5 7#5) := by decide

theorem test_decode_sll :
    decode32 (0b0000000#7 ++ 0b00111#5 ++ 0b10011#5 ++ 0b001#3 ++ 0b01010#5 ++ 0b0110011#7) =
      some (.sll 10#5 19#5 7#5) := by decide

theorem test_decode_slt :
    decode32 (0b0000000#7 ++ 0b00111#5 ++ 0b10011#5 ++ 0b010#3 ++ 0b01010#5 ++ 0b0110011#7) =
      some (.slt 10#5 19#5 7#5) := by decide

theorem test_decode_sltu :
    decode32 (0b0000000#7 ++ 0b00111#5 ++ 0b10011#5 ++ 0b011#3 ++ 0b01010#5 ++ 0b0110011#7) =
      some (.sltu 10#5 19#5 7#5) := by decide

theorem test_decode_xor :
    decode32 (0b0000000#7 ++ 0b00111#5 ++ 0b10011#5 ++ 0b100#3 ++ 0b01010#5 ++ 0b0110011#7) =
      some (.xor 10#5 19#5 7#5) := by decide

theorem test_decode_srl :
    decode32 (0b0000000#7 ++ 0b00111#5 ++ 0b10011#5 ++ 0b101#3 ++ 0b01010#5 ++ 0b0110011#7) =
      some (.srl 10#5 19#5 7#5) := by decide

theorem test_decode_sra :
    decode32 (0b0100000#7 ++ 0b00111#5 ++ 0b10011#5 ++ 0b101#3 ++ 0b01010#5 ++ 0b0110011#7) =
      some (.sra 10#5 19#5 7#5) := by decide

theorem test_decode_or :
    decode32 (0b0000000#7 ++ 0b00111#5 ++ 0b10011#5 ++ 0b110#3 ++ 0b01010#5 ++ 0b0110011#7) =
      some (.or 10#5 19#5 7#5) := by decide

theorem test_decode_and :
    decode32 (0b0000000#7 ++ 0b00111#5 ++ 0b10011#5 ++ 0b111#3 ++ 0b01010#5 ++ 0b0110011#7) =
      some (.and 10#5 19#5 7#5) := by decide

theorem test_decode_fence :
    decode32 (0b1000#4 ++ 0b1011#4 ++ 0b0110#4 ++ 0b10011#5 ++ 0b000#3 ++ 0b01010#5 ++ 0b0001111#7) =
      some (.fence 8#4 11#4 6#4 19#5 10#5) := by decide

theorem test_decode_fenceI :
    decode32 (0b1000#4 ++ 0b1011#4 ++ 0b0110#4 ++ 0b10011#5 ++ 0b001#3 ++ 0b01010#5 ++ 0b0001111#7) =
      some (.fenceI 2230#12 19#5 10#5) := by decide

theorem test_decode_ecall :
    decode32 (0b000000000000#12 ++ 0b00000#5 ++ 0b000#3 ++ 0b00000#5 ++ 0b1110011#7) =
      some .ecall := by decide

theorem test_decode_ebreak :
    decode32 (0b000000000001#12 ++ 0b00000#5 ++ 0b000#3 ++ 0b00000#5 ++ 0b1110011#7) =
      some .ebreak := by decide

theorem test_decode_mret :
    decode32 (0b001100000010#12 ++ 0b00000#5 ++ 0b000#3 ++ 0b00000#5 ++ 0b1110011#7) =
      some .mret := by decide

theorem test_decode_wfi :
    decode32 (0b000100000101#12 ++ 0b00000#5 ++ 0b000#3 ++ 0b00000#5 ++ 0b1110011#7) =
      some .wfi := by decide

theorem test_decode_csrrw :
    decode32 (0b011111000100#12 ++ 0b10011#5 ++ 0b001#3 ++ 0b01010#5 ++ 0b1110011#7) =
      some (.csrrw 10#5 1988#12 19#5) := by decide

theorem test_decode_csrrs :
    decode32 (0b011111000100#12 ++ 0b10011#5 ++ 0b010#3 ++ 0b01010#5 ++ 0b1110011#7) =
      some (.csrrs 10#5 1988#12 19#5) := by decide

theorem test_decode_csrrc :
    decode32 (0b011111000100#12 ++ 0b10011#5 ++ 0b011#3 ++ 0b01010#5 ++ 0b1110011#7) =
      some (.csrrc 10#5 1988#12 19#5) := by decide

theorem test_decode_csrrwi :
    decode32 (0b011111000100#12 ++ 0b11110#5 ++ 0b101#3 ++ 0b01010#5 ++ 0b1110011#7) =
      some (.csrrwi 10#5 1988#12 30#5) := by decide

theorem test_decode_csrrsi :
    decode32 (0b011111000100#12 ++ 0b11110#5 ++ 0b110#3 ++ 0b01010#5 ++ 0b1110011#7) =
      some (.csrrsi 10#5 1988#12 30#5) := by decide

theorem test_decode_csrrci :
    decode32 (0b011111000100#12 ++ 0b11110#5 ++ 0b111#3 ++ 0b01010#5 ++ 0b1110011#7) =
      some (.csrrci 10#5 1988#12 30#5) := by decide

theorem test_decode_mul :
    decode32 (0b0000001#7 ++ 0b00111#5 ++ 0b10011#5 ++ 0b000#3 ++ 0b01010#5 ++ 0b0110011#7) =
      some (.mul 10#5 19#5 7#5) := by decide

theorem test_decode_mulh :
    decode32 (0b0000001#7 ++ 0b00111#5 ++ 0b10011#5 ++ 0b001#3 ++ 0b01010#5 ++ 0b0110011#7) =
      some (.mulh 10#5 19#5 7#5) := by decide

theorem test_decode_mulhsu :
    decode32 (0b0000001#7 ++ 0b00111#5 ++ 0b10011#5 ++ 0b010#3 ++ 0b01010#5 ++ 0b0110011#7) =
      some (.mulhsu 10#5 19#5 7#5) := by decide

theorem test_decode_mulhu :
    decode32 (0b0000001#7 ++ 0b00111#5 ++ 0b10011#5 ++ 0b011#3 ++ 0b01010#5 ++ 0b0110011#7) =
      some (.mulhu 10#5 19#5 7#5) := by decide

theorem test_decode_div :
    decode32 (0b0000001#7 ++ 0b00111#5 ++ 0b10011#5 ++ 0b100#3 ++ 0b01010#5 ++ 0b0110011#7) =
      some (.div 10#5 19#5 7#5) := by decide

theorem test_decode_divu :
    decode32 (0b0000001#7 ++ 0b00111#5 ++ 0b10011#5 ++ 0b101#3 ++ 0b01010#5 ++ 0b0110011#7) =
      some (.divu 10#5 19#5 7#5) := by decide

theorem test_decode_rem :
    decode32 (0b0000001#7 ++ 0b00111#5 ++ 0b10011#5 ++ 0b110#3 ++ 0b01010#5 ++ 0b0110011#7) =
      some (.rem 10#5 19#5 7#5) := by decide

theorem test_decode_remu :
    decode32 (0b0000001#7 ++ 0b00111#5 ++ 0b10011#5 ++ 0b111#3 ++ 0b01010#5 ++ 0b0110011#7) =
      some (.remu 10#5 19#5 7#5) := by decide

theorem test_decode_lrW :
    decode32 (0b00010#5 ++ 0b1#1 ++ 0b0#1 ++ 0b00000#5 ++ 0b10011#5 ++ 0b010#3 ++ 0b01010#5 ++ 0b0101111#7) =
      some (.lrW 10#5 19#5 1#1 0#1) := by decide

theorem test_decode_scW :
    decode32 (0b00011#5 ++ 0b1#1 ++ 0b0#1 ++ 0b00111#5 ++ 0b10011#5 ++ 0b010#3 ++ 0b01010#5 ++ 0b0101111#7) =
      some (.scW 10#5 7#5 19#5 1#1 0#1) := by decide

theorem test_decode_amoswapW :
    decode32 (0b00001#5 ++ 0b1#1 ++ 0b0#1 ++ 0b00111#5 ++ 0b10011#5 ++ 0b010#3 ++ 0b01010#5 ++ 0b0101111#7) =
      some (.amoswapW 10#5 7#5 19#5 1#1 0#1) := by decide

theorem test_decode_amoaddW :
    decode32 (0b00000#5 ++ 0b1#1 ++ 0b0#1 ++ 0b00111#5 ++ 0b10011#5 ++ 0b010#3 ++ 0b01010#5 ++ 0b0101111#7) =
      some (.amoaddW 10#5 7#5 19#5 1#1 0#1) := by decide

theorem test_decode_amoxorW :
    decode32 (0b00100#5 ++ 0b1#1 ++ 0b0#1 ++ 0b00111#5 ++ 0b10011#5 ++ 0b010#3 ++ 0b01010#5 ++ 0b0101111#7) =
      some (.amoxorW 10#5 7#5 19#5 1#1 0#1) := by decide

theorem test_decode_amoandW :
    decode32 (0b01100#5 ++ 0b1#1 ++ 0b0#1 ++ 0b00111#5 ++ 0b10011#5 ++ 0b010#3 ++ 0b01010#5 ++ 0b0101111#7) =
      some (.amoandW 10#5 7#5 19#5 1#1 0#1) := by decide

theorem test_decode_amoorW :
    decode32 (0b01000#5 ++ 0b1#1 ++ 0b0#1 ++ 0b00111#5 ++ 0b10011#5 ++ 0b010#3 ++ 0b01010#5 ++ 0b0101111#7) =
      some (.amoorW 10#5 7#5 19#5 1#1 0#1) := by decide

theorem test_decode_amominW :
    decode32 (0b10000#5 ++ 0b1#1 ++ 0b0#1 ++ 0b00111#5 ++ 0b10011#5 ++ 0b010#3 ++ 0b01010#5 ++ 0b0101111#7) =
      some (.amominW 10#5 7#5 19#5 1#1 0#1) := by decide

theorem test_decode_amomaxW :
    decode32 (0b10100#5 ++ 0b1#1 ++ 0b0#1 ++ 0b00111#5 ++ 0b10011#5 ++ 0b010#3 ++ 0b01010#5 ++ 0b0101111#7) =
      some (.amomaxW 10#5 7#5 19#5 1#1 0#1) := by decide

theorem test_decode_amominuW :
    decode32 (0b11000#5 ++ 0b1#1 ++ 0b0#1 ++ 0b00111#5 ++ 0b10011#5 ++ 0b010#3 ++ 0b01010#5 ++ 0b0101111#7) =
      some (.amominuW 10#5 7#5 19#5 1#1 0#1) := by decide

theorem test_decode_amomaxuW :
    decode32 (0b11100#5 ++ 0b1#1 ++ 0b0#1 ++ 0b00111#5 ++ 0b10011#5 ++ 0b010#3 ++ 0b01010#5 ++ 0b0101111#7) =
      some (.amomaxuW 10#5 7#5 19#5 1#1 0#1) := by decide

theorem test_decode_cAddi4spn :
    decode16 (0b000#3 ++ 0b10#2 ++ 0b1101#4 ++ 0b1#1 ++ 0b1#1 ++ 0b010#3 ++ 0b00#2) =
      some (.cAddi4spn 2#3 219#8) := by decide

theorem test_decode_cLw :
    decode16 (0b010#3 ++ 0b101#3 ++ 0b101#3 ++ 0b1#1 ++ 0b1#1 ++ 0b010#3 ++ 0b00#2) =
      some (.cLw 2#3 5#3 27#5) := by decide

theorem test_decode_cSw :
    decode16 (0b110#3 ++ 0b101#3 ++ 0b101#3 ++ 0b1#1 ++ 0b1#1 ++ 0b011#3 ++ 0b00#2) =
      some (.cSw 3#3 5#3 27#5) := by decide

theorem test_decode_cNop :
    decode16 (0b000#3 ++ 0b1#1 ++ 0b00000#5 ++ 0b01110#5 ++ 0b01#2) =
      some (.cNop 46#6) := by decide

theorem test_decode_cAddi :
    decode16 (0b000#3 ++ 0b1#1 ++ 0b01010#5 ++ 0b01110#5 ++ 0b01#2) =
      some (.cAddi 10#5 46#6) := by decide

theorem test_decode_cJal :
    decode16 (0b001#3 ++ 0b1#1 ++ 0b0#1 ++ 0b01#2 ++ 0b0#1 ++ 0b1#1 ++ 0b0#1 ++ 0b111#3 ++ 0b1#1 ++ 0b01#2) =
      some (.cJal 1207#11) := by decide

theorem test_decode_cLi :
    decode16 (0b010#3 ++ 0b1#1 ++ 0b01010#5 ++ 0b01110#5 ++ 0b01#2) =
      some (.cLi 10#5 46#6) := by decide

theorem test_decode_cAddi16sp :
    decode16 (0b011#3 ++ 0b1#1 ++ 0b00010#5 ++ 0b0#1 ++ 0b1#1 ++ 0b10#2 ++ 0b1#1 ++ 0b01#2) =
      some (.cAddi16sp 54#6) := by decide

theorem test_decode_cLui :
    decode16 (0b011#3 ++ 0b1#1 ++ 0b01010#5 ++ 0b00110#5 ++ 0b01#2) =
      some (.cLui 10#5 38#6) := by decide

theorem test_decode_cSrli :
    decode16 (0b100#3 ++ 0b0#1 ++ 0b00#2 ++ 0b010#3 ++ 0b11110#5 ++ 0b01#2) =
      some (.cSrli 2#3 30#5) := by decide

theorem test_decode_cSrai :
    decode16 (0b100#3 ++ 0b0#1 ++ 0b01#2 ++ 0b010#3 ++ 0b11110#5 ++ 0b01#2) =
      some (.cSrai 2#3 30#5) := by decide

theorem test_decode_cAndi :
    decode16 (0b100#3 ++ 0b1#1 ++ 0b10#2 ++ 0b010#3 ++ 0b01110#5 ++ 0b01#2) =
      some (.cAndi 2#3 46#6) := by decide

theorem test_decode_cSub :
    decode16 (0b100011#6 ++ 0b010#3 ++ 0b00#2 ++ 0b011#3 ++ 0b01#2) =
      some (.cSub 2#3 3#3) := by decide

theorem test_decode_cXor :
    decode16 (0b100011#6 ++ 0b010#3 ++ 0b01#2 ++ 0b011#3 ++ 0b01#2) =
      some (.cXor 2#3 3#3) := by decide

theorem test_decode_cOr :
    decode16 (0b100011#6 ++ 0b010#3 ++ 0b10#2 ++ 0b011#3 ++ 0b01#2) =
      some (.cOr 2#3 3#3) := by decide

theorem test_decode_cAnd :
    decode16 (0b100011#6 ++ 0b010#3 ++ 0b11#2 ++ 0b011#3 ++ 0b01#2) =
      some (.cAnd 2#3 3#3) := by decide

theorem test_decode_cJ :
    decode16 (0b101#3 ++ 0b1#1 ++ 0b0#1 ++ 0b01#2 ++ 0b0#1 ++ 0b1#1 ++ 0b0#1 ++ 0b111#3 ++ 0b1#1 ++ 0b01#2) =
      some (.cJ 1207#11) := by decide

theorem test_decode_cBeqz :
    decode16 (0b110#3 ++ 0b1#1 ++ 0b01#2 ++ 0b101#3 ++ 0b01#2 ++ 0b11#2 ++ 0b1#1 ++ 0b01#2) =
      some (.cBeqz 5#3 183#8) := by decide

theorem test_decode_cBnez :
    decode16 (0b111#3 ++ 0b1#1 ++ 0b01#2 ++ 0b101#3 ++ 0b01#2 ++ 0b11#2 ++ 0b1#1 ++ 0b01#2) =
      some (.cBnez 5#3 183#8) := by decide

theorem test_decode_cSlli :
    decode16 (0b000#3 ++ 0b0#1 ++ 0b01010#5 ++ 0b11110#5 ++ 0b10#2) =
      some (.cSlli 10#5 30#5) := by decide

theorem test_decode_cLwsp :
    decode16 (0b010#3 ++ 0b1#1 ++ 0b01010#5 ++ 0b011#3 ++ 0b11#2 ++ 0b10#2) =
      some (.cLwsp 10#5 59#6) := by decide

theorem test_decode_cJr :
    decode16 (0b1000#4 ++ 0b10011#5 ++ 0b00000#5 ++ 0b10#2) =
      some (.cJr 19#5) := by decide

theorem test_decode_cMv :
    decode16 (0b1000#4 ++ 0b01010#5 ++ 0b00111#5 ++ 0b10#2) =
      some (.cMv 10#5 7#5) := by decide

theorem test_decode_cEbreak :
    decode16 (0b1001#4 ++ 0b00000#5 ++ 0b00000#5 ++ 0b10#2) =
      some .cEbreak := by decide

theorem test_decode_cJalr :
    decode16 (0b1001#4 ++ 0b10011#5 ++ 0b00000#5 ++ 0b10#2) =
      some (.cJalr 19#5) := by decide

theorem test_decode_cAdd :
    decode16 (0b1001#4 ++ 0b01010#5 ++ 0b00111#5 ++ 0b10#2) =
      some (.cAdd 10#5 7#5) := by decide

theorem test_decode_cSwsp :
    decode16 (0b110#3 ++ 0b1011#4 ++ 0b11#2 ++ 0b00111#5 ++ 0b10#2) =
      some (.cSwsp 7#5 59#6) := by decide

/-! ## One step on a small state

The states, words and results are rows of spec/95_test_vectors.md and spec/96_test_vectors_system.md, sections 2 and 4:
the instruction stands at 0x1000 in Machine Mode with `mtvec` 0x400, and every register not listed holds 0xDEADBEEF. -/

/-- The start state of the vectors, with some registers and words of memory set. -/
def start (regs : List (Reg × Word)) (words : List (Word × Word)) : State :=
  words.foldl (fun s w => { storeBytes w.1 4 w.2 s with stale := [] })
    (regs.foldl (fun s r => setReg r.1 r.2 s)
      { State.reset with
        pc := 0x1000#32, x := Vector.replicate 32 0xDEADBEEF#32, csr := { State.reset.csr with mtvec := 0x400#32 } })

/-- A valid reservation. -/
def reserving (a : Word) (s : State) : State := { s with reservation := some a }

/-- A CSR set. -/
def withCsr (r : CsrReg) (v : Word) (s : State) : State := csrWrite r v s

/-- User Mode. -/
def inUserMode (s : State) : State := { s with priv := .U }

/-- What `f` shows after one step on the instruction `w` of `n` bits. -/
def stepped (n w : Nat) (s : State) (f : State → List Word) : Option (List Word) :=
  match step (s.withFetchWord n w) with
  | .next t => some (f t)
  | .fault _ => none
  | .refused _ => none

/-- 2.1: `fffff537` lui a0, 0xfffff. -/
theorem test_lui :
    stepped 32 0xfffff537 (start [] []) (fun t => [t.pc, readReg t 10#5]) =
      some [0x1004#32, 0xFFFFF000#32] := by decide

/-- 2.1: `fffff517` auipc a0, 0xfffff. -/
theorem test_auipc :
    stepped 32 0xfffff517 (start [] []) (fun t => [t.pc, readReg t 10#5]) =
      some [0x1004#32, 0x0#32] := by decide

/-- 2.1: `ff958513` addi a0, a1, -7. -/
theorem test_addi :
    stepped 32 0xff958513 (start [(11#5, 0x5#32)] []) (fun t => [t.pc, readReg t 10#5]) =
      some [0x1004#32, 0xFFFFFFFE#32] := by decide

/-- 2.1: `00000013` addi zero, zero, 0. -/
theorem test_addi_2 :
    stepped 32 0x00000013 (start [] []) (fun t => [t.pc]) =
      some [0x1004#32] := by decide

/-- 2.1: `0005a513` slti a0, a1, 0 (-1 < 0 signed). -/
theorem test_slti :
    stepped 32 0x0005a513 (start [(11#5, 0xFFFFFFFF#32)] []) (fun t => [t.pc, readReg t 10#5]) =
      some [0x1004#32, 0x1#32] := by decide

/-- 2.1: `fff5a513` slti a0, a1, -1. -/
theorem test_slti_2 :
    stepped 32 0xfff5a513 (start [(11#5, 0xFFFFFFFF#32)] []) (fun t => [t.pc, readReg t 10#5]) =
      some [0x1004#32, 0x0#32] := by decide

/-- 2.1: `fff5b513` sltiu a0, a1, -1 (immediate sign-extended, then compared unsigned). -/
theorem test_sltiu :
    stepped 32 0xfff5b513 (start [(11#5, 0xFFFFFFFE#32)] []) (fun t => [t.pc, readReg t 10#5]) =
      some [0x1004#32, 0x1#32] := by decide

/-- 2.1: `0005b513` sltiu a0, a1, 0 (nothing is below 0 unsigned). -/
theorem test_sltiu_2 :
    stepped 32 0x0005b513 (start [(11#5, 0x0#32)] []) (fun t => [t.pc, readReg t 10#5]) =
      some [0x1004#32, 0x0#32] := by decide

/-- 2.1: `fff5c513` xori a0, a1, -1 (not idiom). -/
theorem test_xori :
    stepped 32 0xfff5c513 (start [(11#5, 0xF0F1234#32)] []) (fun t => [t.pc, readReg t 10#5]) =
      some [0x1004#32, 0xF0F0EDCB#32] := by decide

/-- 2.1: `7ff5e513` ori a0, a1, 2047. -/
theorem test_ori :
    stepped 32 0x7ff5e513 (start [(11#5, 0x80000000#32)] []) (fun t => [t.pc, readReg t 10#5]) =
      some [0x1004#32, 0x800007FF#32] := by decide

/-- 2.1: `8005e513` ori a0, a1, -2048. -/
theorem test_ori_2 :
    stepped 32 0x8005e513 (start [(11#5, 0x1#32)] []) (fun t => [t.pc, readReg t 10#5]) =
      some [0x1004#32, 0xFFFFF801#32] := by decide

/-- 2.1: `0ff5f513` andi a0, a1, 255. -/
theorem test_andi :
    stepped 32 0x0ff5f513 (start [(11#5, 0x12345678#32)] []) (fun t => [t.pc, readReg t 10#5]) =
      some [0x1004#32, 0x78#32] := by decide

/-- 2.1: `00059513` slli a0, a1, 0. -/
theorem test_slli :
    stepped 32 0x00059513 (start [(11#5, 0x80000001#32)] []) (fun t => [t.pc, readReg t 10#5]) =
      some [0x1004#32, 0x80000001#32] := by decide

/-- 2.1: `01f5d513` srli a0, a1, 31. -/
theorem test_srli :
    stepped 32 0x01f5d513 (start [(11#5, 0x80000001#32)] []) (fun t => [t.pc, readReg t 10#5]) =
      some [0x1004#32, 0x1#32] := by decide

/-- 2.1: `41f5d513` srai a0, a1, 31. -/
theorem test_srai :
    stepped 32 0x41f5d513 (start [(11#5, 0x80000001#32)] []) (fun t => [t.pc, readReg t 10#5]) =
      some [0x1004#32, 0xFFFFFFFF#32] := by decide

/-- 2.1: `4045d513` srai a0, a1, 4. -/
theorem test_srai_2 :
    stepped 32 0x4045d513 (start [(11#5, 0x70000001#32)] []) (fun t => [t.pc, readReg t 10#5]) =
      some [0x1004#32, 0x7000000#32] := by decide

/-- 2.1: `00c58533` add a0, a1, a2 (carry out lost). -/
theorem test_add :
    stepped 32 0x00c58533 (start [(11#5, 0xFFFFFFFF#32), (12#5, 0x1#32)] []) (fun t => [t.pc, readReg t 10#5]) =
      some [0x1004#32, 0x0#32] := by decide

/-- 2.1: `40c58533` sub a0, a1, a2. -/
theorem test_sub :
    stepped 32 0x40c58533 (start [(11#5, 0x0#32), (12#5, 0x1#32)] []) (fun t => [t.pc, readReg t 10#5]) =
      some [0x1004#32, 0xFFFFFFFF#32] := by decide

/-- 2.1: `40c58533` sub a0, a1, a2. -/
theorem test_sub_2 :
    stepped 32 0x40c58533 (start [(11#5, 0x80000000#32), (12#5, 0x1#32)] []) (fun t => [t.pc, readReg t 10#5]) =
      some [0x1004#32, 0x7FFFFFFF#32] := by decide

/-- 2.1: `00c59533` sll a0, a1, a2 (only a2[4:0] = 1 is used). -/
theorem test_sll :
    stepped 32 0x00c59533 (start [(11#5, 0x1#32), (12#5, 0x21#32)] []) (fun t => [t.pc, readReg t 10#5]) =
      some [0x1004#32, 0x2#32] := by decide

/-- 2.1: `00c59533` sll a0, a1, a2 (shift by 31). -/
theorem test_sll_2 :
    stepped 32 0x00c59533 (start [(11#5, 0x1#32), (12#5, 0xFFFFFFFF#32)] []) (fun t => [t.pc, readReg t 10#5]) =
      some [0x1004#32, 0x80000000#32] := by decide

/-- 2.1: `00c5d533` srl a0, a1, a2 (shift by 0). -/
theorem test_srl :
    stepped 32 0x00c5d533 (start [(11#5, 0x80000000#32), (12#5, 0x20#32)] []) (fun t => [t.pc, readReg t 10#5]) =
      some [0x1004#32, 0x80000000#32] := by decide

/-- 2.1: `00c5d533` srl a0, a1, a2. -/
theorem test_srl_2 :
    stepped 32 0x00c5d533 (start [(11#5, 0x80000000#32), (12#5, 0x7#32)] []) (fun t => [t.pc, readReg t 10#5]) =
      some [0x1004#32, 0x1000000#32] := by decide

/-- 2.1: `40c5d533` sra a0, a1, a2. -/
theorem test_sra :
    stepped 32 0x40c5d533 (start [(11#5, 0x80000000#32), (12#5, 0x7#32)] []) (fun t => [t.pc, readReg t 10#5]) =
      some [0x1004#32, 0xFF000000#32] := by decide

/-- 2.1: `40c5d533` sra a0, a1, a2 (shift by 31). -/
theorem test_sra_2 :
    stepped 32 0x40c5d533 (start [(11#5, 0x80000000#32), (12#5, 0x3F#32)] []) (fun t => [t.pc, readReg t 10#5]) =
      some [0x1004#32, 0xFFFFFFFF#32] := by decide

/-- 2.1: `00c5a533` slt a0, a1, a2. -/
theorem test_slt :
    stepped 32 0x00c5a533 (start [(11#5, 0x80000000#32), (12#5, 0x7FFFFFFF#32)] []) (fun t => [t.pc, readReg t 10#5]) =
      some [0x1004#32, 0x1#32] := by decide

/-- 2.1: `00c5a533` slt a0, a1, a2. -/
theorem test_slt_2 :
    stepped 32 0x00c5a533 (start [(11#5, 0x5#32), (12#5, 0x5#32)] []) (fun t => [t.pc, readReg t 10#5]) =
      some [0x1004#32, 0x0#32] := by decide

/-- 2.1: `00c5b533` sltu a0, a1, a2. -/
theorem test_sltu :
    stepped 32 0x00c5b533 (start [(11#5, 0x80000000#32), (12#5, 0x7FFFFFFF#32)] []) (fun t => [t.pc, readReg t 10#5]) =
      some [0x1004#32, 0x0#32] := by decide

/-- 2.1: `00c03533` sltu a0, zero, a2 (snez idiom). -/
theorem test_sltu_2 :
    stepped 32 0x00c03533 (start [(12#5, 0x5#32)] []) (fun t => [t.pc, readReg t 10#5]) =
      some [0x1004#32, 0x1#32] := by decide

/-- 2.1: `00c5c533` xor a0, a1, a2. -/
theorem test_xor :
    stepped 32 0x00c5c533 (start [(11#5, 0xFF00FF00#32), (12#5, 0xFF00FF0#32)] []) (fun t => [t.pc, readReg t 10#5]) =
      some [0x1004#32, 0xF0F0F0F0#32] := by decide

/-- 2.1: `00c5e533` or a0, a1, a2. -/
theorem test_or :
    stepped 32 0x00c5e533 (start [(11#5, 0xFF00FF00#32), (12#5, 0xFF00FF0#32)] []) (fun t => [t.pc, readReg t 10#5]) =
      some [0x1004#32, 0xFFF0FFF0#32] := by decide

/-- 2.1: `00c5f533` and a0, a1, a2. -/
theorem test_and :
    stepped 32 0x00c5f533 (start [(11#5, 0xFF00FF00#32), (12#5, 0xFF00FF0#32)] []) (fun t => [t.pc, readReg t 10#5]) =
      some [0x1004#32, 0xF000F00#32] := by decide

/-- 2.2: `008000ef` jal ra, 8. -/
theorem test_jal :
    stepped 32 0x008000ef (start [] []) (fun t => [t.pc, readReg t 1#5]) =
      some [0x1008#32, 0x1004#32] := by decide

/-- 2.2: `000580e7` jalr ra, 0(a1) (bit 0 of the target cleared). -/
theorem test_jalr :
    stepped 32 0x000580e7 (start [(11#5, 0x2001#32)] []) (fun t => [t.pc, readReg t 1#5]) =
      some [0x2000#32, 0x1004#32] := by decide

/-- 2.2: `800580e7` jalr ra, -2048(a1). -/
theorem test_jalr_2 :
    stepped 32 0x800580e7 (start [(11#5, 0x400#32)] []) (fun t => [t.pc, readReg t 1#5]) =
      some [0xFFFFFC00#32, 0x1004#32] := by decide

/-- 2.2: `00b50863` beq a0, a1, 16. -/
theorem test_beq :
    stepped 32 0x00b50863 (start [(10#5, 0x7#32), (11#5, 0x7#32)] []) (fun t => [t.pc]) =
      some [0x1010#32] := by decide

/-- 2.2: `00000163` beq zero, zero, 2 (2-byte aligned target). -/
theorem test_beq_2 :
    stepped 32 0x00000163 (start [] []) (fun t => [t.pc]) =
      some [0x1002#32] := by decide

/-- 2.2: `feb518e3` bne a0, a1, -16 (backward). -/
theorem test_bne :
    stepped 32 0xfeb518e3 (start [(10#5, 0x7#32), (11#5, 0x8#32)] []) (fun t => [t.pc]) =
      some [0xFF0#32] := by decide

/-- 2.2: `feb518e3` bne a0, a1, -16. -/
theorem test_bne_2 :
    stepped 32 0xfeb518e3 (start [(10#5, 0x7#32), (11#5, 0x7#32)] []) (fun t => [t.pc]) =
      some [0x1004#32] := by decide

/-- 2.2: `7eb54f63` blt a0, a1, 2046 (-1 < 1 signed). -/
theorem test_blt :
    stepped 32 0x7eb54f63 (start [(10#5, 0xFFFFFFFF#32), (11#5, 0x1#32)] []) (fun t => [t.pc]) =
      some [0x17FE#32] := by decide

/-- 2.2: `7eb54fe3` blt a0, a1, 4094 (largest forward offset). -/
theorem test_blt_2 :
    stepped 32 0x7eb54fe3 (start [(10#5, 0x80000000#32), (11#5, 0x7FFFFFFF#32)] []) (fun t => [t.pc]) =
      some [0x1FFE#32] := by decide

/-- 2.2: `7eb56f63` bltu a0, a1, 2046 (not below, unsigned). -/
theorem test_bltu :
    stepped 32 0x7eb56f63 (start [(10#5, 0xFFFFFFFF#32), (11#5, 0x1#32)] []) (fun t => [t.pc]) =
      some [0x1004#32] := by decide

/-- 2.2: `00b55463` bge a0, a1, 8 (equal counts as taken). -/
theorem test_bge :
    stepped 32 0x00b55463 (start [(10#5, 0x5#32), (11#5, 0x5#32)] []) (fun t => [t.pc]) =
      some [0x1008#32] := by decide

/-- 2.2: `00b55463` bge a0, a1, 8. -/
theorem test_bge_2 :
    stepped 32 0x00b55463 (start [(10#5, 0x80000000#32), (11#5, 0x0#32)] []) (fun t => [t.pc]) =
      some [0x1004#32] := by decide

/-- 2.2: `00b57463` bgeu a0, a1, 8. -/
theorem test_bgeu :
    stepped 32 0x00b57463 (start [(10#5, 0x80000000#32), (11#5, 0x0#32)] []) (fun t => [t.pc]) =
      some [0x1008#32] := by decide

/-- 2.2: `80b57063` bgeu a0, a1, -4096 (largest backward offset). -/
theorem test_bgeu_2 :
    stepped 32 0x80b57063 (start [(10#5, 0x0#32), (11#5, 0x0#32)] []) (fun t => [t.pc]) =
      some [0x0#32] := by decide

/-- 2.3: `0005a503` lw a0, 0(a1). -/
theorem test_lw :
    stepped 32 0x0005a503 (start [(11#5, 0x20000000#32)] [(0x20000000#32, 0x80FF7F01#32)]) (fun t => [t.pc, readReg t 10#5]) =
      some [0x1004#32, 0x80FF7F01#32] := by decide

/-- 2.3: `0015a003` lw zero, 1(a1) (rd = x0 still faults). -/
theorem test_lw_2 :
    stepped 32 0x0015a003 (start [(11#5, 0x20000000#32)] []) (fun t => [t.pc, csrRead t .mepc, csrRead t .mcause, csrRead t .mtval]) =
      some [0x400#32, 0x1000#32, 0x30000004#32, 0x20000001#32] := by decide

/-- 2.3: `00058503` lb a0, 0(a1) (byte 0 is the least significant). -/
theorem test_lb :
    stepped 32 0x00058503 (start [(11#5, 0x20000000#32)] [(0x20000000#32, 0x80FF7F01#32)]) (fun t => [t.pc, readReg t 10#5]) =
      some [0x1004#32, 0x1#32] := by decide

/-- 2.3: `00358503` lb a0, 3(a1) (sign-extended). -/
theorem test_lb_2 :
    stepped 32 0x00358503 (start [(11#5, 0x20000000#32)] [(0x20000000#32, 0x80FF7F01#32)]) (fun t => [t.pc, readReg t 10#5]) =
      some [0x1004#32, 0xFFFFFF80#32] := by decide

/-- 2.3: `0035c503` lbu a0, 3(a1). -/
theorem test_lbu :
    stepped 32 0x0035c503 (start [(11#5, 0x20000000#32)] [(0x20000000#32, 0x80FF7F01#32)]) (fun t => [t.pc, readReg t 10#5]) =
      some [0x1004#32, 0x80#32] := by decide

/-- 2.3: `00259503` lh a0, 2(a1). -/
theorem test_lh :
    stepped 32 0x00259503 (start [(11#5, 0x20000000#32)] [(0x20000000#32, 0x80FF7F01#32)]) (fun t => [t.pc, readReg t 10#5]) =
      some [0x1004#32, 0xFFFF80FF#32] := by decide

/-- 2.3: `00159503` lh a0, 1(a1). -/
theorem test_lh_2 :
    stepped 32 0x00159503 (start [(11#5, 0x20000000#32)] []) (fun t => [t.pc, csrRead t .mepc, csrRead t .mcause, csrRead t .mtval]) =
      some [0x400#32, 0x1000#32, 0x30000004#32, 0x20000001#32] := by decide

/-- 2.3: `0025d503` lhu a0, 2(a1). -/
theorem test_lhu :
    stepped 32 0x0025d503 (start [(11#5, 0x20000000#32)] [(0x20000000#32, 0x80FF7F01#32)]) (fun t => [t.pc, readReg t 10#5]) =
      some [0x1004#32, 0x80FF#32] := by decide

/-- 2.3: `0035d503` lhu a0, 3(a1). -/
theorem test_lhu_2 :
    stepped 32 0x0035d503 (start [(11#5, 0x20000000#32)] []) (fun t => [t.pc, csrRead t .mepc, csrRead t .mcause, csrRead t .mtval]) =
      some [0x400#32, 0x1000#32, 0x30000004#32, 0x20000003#32] := by decide

/-- 2.3: `00a5a023` sw a0, 0(a1). -/
theorem test_sw :
    stepped 32 0x00a5a023 (start [(10#5, 0x11223344#32), (11#5, 0x20000000#32)] []) (fun t => [t.pc, memValue t 0x20000000#32 4]) =
      some [0x1004#32, 0x11223344#32] := by decide

/-- 2.3: `00a5a0a3` sw a0, 1(a1). -/
theorem test_sw_2 :
    stepped 32 0x00a5a0a3 (start [(10#5, 0x1#32), (11#5, 0x20000000#32)] []) (fun t => [t.pc, csrRead t .mepc, csrRead t .mcause, csrRead t .mtval]) =
      some [0x400#32, 0x1000#32, 0x30000006#32, 0x20000001#32] := by decide

/-- 2.3: `00a59123` sh a0, 2(a1) (low halfword of rs2). -/
theorem test_sh :
    stepped 32 0x00a59123 (start [(10#5, 0x11223344#32), (11#5, 0x20000000#32)] []) (fun t => [t.pc, memValue t 0x20000002#32 2]) =
      some [0x1004#32, 0x3344#32] := by decide

/-- 2.3: `00a590a3` sh a0, 1(a1). -/
theorem test_sh_2 :
    stepped 32 0x00a590a3 (start [(10#5, 0x1#32), (11#5, 0x20000000#32)] []) (fun t => [t.pc, csrRead t .mepc, csrRead t .mcause, csrRead t .mtval]) =
      some [0x400#32, 0x1000#32, 0x30000006#32, 0x20000001#32] := by decide

/-- 2.3: `00a581a3` sb a0, 3(a1) (low byte of rs2). -/
theorem test_sb :
    stepped 32 0x00a581a3 (start [(10#5, 0x11223344#32), (11#5, 0x20000000#32)] []) (fun t => [t.pc, memValue t 0x20000003#32 1]) =
      some [0x1004#32, 0x44#32] := by decide

/-- 2.3: `00a580a3` sb a0, 1(a1) (bytes have no alignment). -/
theorem test_sb_2 :
    stepped 32 0x00a580a3 (start [(10#5, 0xAB#32), (11#5, 0x20000000#32)] []) (fun t => [t.pc, memValue t 0x20000001#32 1]) =
      some [0x1004#32, 0xAB#32] := by decide

/-- 2.3: `0ff0000f` fence. -/
theorem test_fence :
    stepped 32 0x0ff0000f (start [] []) (fun t => [t.pc]) =
      some [0x1004#32] := by decide

/-- 2.3: `0000100f` fence.i. -/
theorem test_fence_i :
    stepped 32 0x0000100f (start [] []) (fun t => [t.pc]) =
      some [0x1004#32] := by decide

/-- 2.4: `02c58533` mul a0, a1, a2 (low word of 2^32). -/
theorem test_mul :
    stepped 32 0x02c58533 (start [(11#5, 0x10000#32), (12#5, 0x10000#32)] []) (fun t => [t.pc, readReg t 10#5]) =
      some [0x1004#32, 0x0#32] := by decide

/-- 2.4: `02c58533` mul a0, a1, a2. -/
theorem test_mul_2 :
    stepped 32 0x02c58533 (start [(11#5, 0x80000000#32), (12#5, 0xFFFFFFFF#32)] []) (fun t => [t.pc, readReg t 10#5]) =
      some [0x1004#32, 0x80000000#32] := by decide

/-- 2.4: `02c59533` mulh a0, a1, a2 ((-1)(-1) = 1). -/
theorem test_mulh :
    stepped 32 0x02c59533 (start [(11#5, 0xFFFFFFFF#32), (12#5, 0xFFFFFFFF#32)] []) (fun t => [t.pc, readReg t 10#5]) =
      some [0x1004#32, 0x0#32] := by decide

/-- 2.4: `02c59533` mulh a0, a1, a2. -/
theorem test_mulh_2 :
    stepped 32 0x02c59533 (start [(11#5, 0x80000000#32), (12#5, 0x7FFFFFFF#32)] []) (fun t => [t.pc, readReg t 10#5]) =
      some [0x1004#32, 0xC0000000#32] := by decide

/-- 2.4: `02c5a533` mulhsu a0, a1, a2 ((-1)(2^32 - 1)). -/
theorem test_mulhsu :
    stepped 32 0x02c5a533 (start [(11#5, 0xFFFFFFFF#32), (12#5, 0xFFFFFFFF#32)] []) (fun t => [t.pc, readReg t 10#5]) =
      some [0x1004#32, 0xFFFFFFFF#32] := by decide

/-- 2.4: `02c5a533` mulhsu a0, a1, a2. -/
theorem test_mulhsu_2 :
    stepped 32 0x02c5a533 (start [(11#5, 0x80000000#32), (12#5, 0x80000000#32)] []) (fun t => [t.pc, readReg t 10#5]) =
      some [0x1004#32, 0xC0000000#32] := by decide

/-- 2.4: `02c5b533` mulhu a0, a1, a2. -/
theorem test_mulhu :
    stepped 32 0x02c5b533 (start [(11#5, 0xFFFFFFFF#32), (12#5, 0xFFFFFFFF#32)] []) (fun t => [t.pc, readReg t 10#5]) =
      some [0x1004#32, 0xFFFFFFFE#32] := by decide

/-- 2.4: `02c5c533` div a0, a1, a2 (-7 / 2 rounds toward zero). -/
theorem test_div :
    stepped 32 0x02c5c533 (start [(11#5, 0xFFFFFFF9#32), (12#5, 0x2#32)] []) (fun t => [t.pc, readReg t 10#5]) =
      some [0x1004#32, 0xFFFFFFFD#32] := by decide

/-- 2.4: `02c5c533` div a0, a1, a2 (overflow: no trap). -/
theorem test_div_2 :
    stepped 32 0x02c5c533 (start [(11#5, 0x80000000#32), (12#5, 0xFFFFFFFF#32)] []) (fun t => [t.pc, readReg t 10#5]) =
      some [0x1004#32, 0x80000000#32] := by decide

/-- 2.4: `02c5e533` rem a0, a1, a2 (sign of the dividend). -/
theorem test_rem :
    stepped 32 0x02c5e533 (start [(11#5, 0xFFFFFFF9#32), (12#5, 0x2#32)] []) (fun t => [t.pc, readReg t 10#5]) =
      some [0x1004#32, 0xFFFFFFFF#32] := by decide

/-- 2.4: `02c5e533` rem a0, a1, a2 (the dividend). -/
theorem test_rem_2 :
    stepped 32 0x02c5e533 (start [(11#5, 0x12345678#32), (12#5, 0x0#32)] []) (fun t => [t.pc, readReg t 10#5]) =
      some [0x1004#32, 0x12345678#32] := by decide

/-- 2.4: `02c5d533` divu a0, a1, a2. -/
theorem test_divu :
    stepped 32 0x02c5d533 (start [(11#5, 0x12345678#32), (12#5, 0x0#32)] []) (fun t => [t.pc, readReg t 10#5]) =
      some [0x1004#32, 0xFFFFFFFF#32] := by decide

/-- 2.4: `02c5d533` divu a0, a1, a2. -/
theorem test_divu_2 :
    stepped 32 0x02c5d533 (start [(11#5, 0xFFFFFFF9#32), (12#5, 0x2#32)] []) (fun t => [t.pc, readReg t 10#5]) =
      some [0x1004#32, 0x7FFFFFFC#32] := by decide

/-- 2.4: `02c5f533` remu a0, a1, a2. -/
theorem test_remu :
    stepped 32 0x02c5f533 (start [(11#5, 0x12345678#32), (12#5, 0x0#32)] []) (fun t => [t.pc, readReg t 10#5]) =
      some [0x1004#32, 0x12345678#32] := by decide

/-- 2.4: `02c5f533` remu a0, a1, a2. -/
theorem test_remu_2 :
    stepped 32 0x02c5f533 (start [(11#5, 0xFFFFFFF9#32), (12#5, 0x2#32)] []) (fun t => [t.pc, readReg t 10#5]) =
      some [0x1004#32, 0x1#32] := by decide

/-- 2.5: `1005a52f` lr.w a0, (a1). -/
theorem test_lr_w :
    stepped 32 0x1005a52f (start [(11#5, 0x20000000#32)] [(0x20000000#32, 0x12345678#32)]) (fun t => [t.pc, readReg t 10#5]) =
      some [0x1004#32, 0x12345678#32] := by decide

/-- 2.5: `1005a52f` lr.w a0, (a1). -/
theorem test_lr_w_2 :
    stepped 32 0x1005a52f (start [(11#5, 0x20000001#32)] []) (fun t => [t.pc, csrRead t .mepc, csrRead t .mcause, csrRead t .mtval]) =
      some [0x400#32, 0x1000#32, 0x30000004#32, 0x20000001#32] := by decide

/-- 2.5: `18c5a52f` sc.w a0, a2, (a1) (success). -/
theorem test_sc_w :
    stepped 32 0x18c5a52f (reserving 0x20000000#32 (start [(11#5, 0x20000000#32), (12#5, 0xCAFE0001#32)] [(0x20000000#32, 0x12345678#32)])) (fun t => [t.pc, readReg t 10#5, memValue t 0x20000000#32 4]) =
      some [0x1004#32, 0x0#32, 0xCAFE0001#32] := by decide

/-- 2.5: `18c5a52f` sc.w a0, a2, (a1) (no reservation: fails, no write). -/
theorem test_sc_w_2 :
    stepped 32 0x18c5a52f (start [(11#5, 0x20000000#32), (12#5, 0xCAFE0001#32)] [(0x20000000#32, 0x12345678#32)]) (fun t => [t.pc, readReg t 10#5]) =
      some [0x1004#32, 0x1#32] := by decide

/-- 2.5: `08c5a52f` amoswap.w a0, a2, (a1). -/
theorem test_amoswap_w :
    stepped 32 0x08c5a52f (start [(11#5, 0x20000000#32), (12#5, 0xAAAAAAAA#32)] [(0x20000000#32, 0x55555555#32)]) (fun t => [t.pc, readReg t 10#5, memValue t 0x20000000#32 4]) =
      some [0x1004#32, 0x55555555#32, 0xAAAAAAAA#32] := by decide

/-- 2.5: `08c5a52f` amoswap.w a0, a2, (a1). -/
theorem test_amoswap_w_2 :
    stepped 32 0x08c5a52f (start [(11#5, 0x20000002#32), (12#5, 0x1#32)] []) (fun t => [t.pc, csrRead t .mepc, csrRead t .mcause, csrRead t .mtval]) =
      some [0x400#32, 0x1000#32, 0x30000006#32, 0x20000002#32] := by decide

/-- 2.5: `00c5a52f` amoadd.w a0, a2, (a1) (wraps). -/
theorem test_amoadd_w :
    stepped 32 0x00c5a52f (start [(11#5, 0x20000000#32), (12#5, 0x1#32)] [(0x20000000#32, 0xFFFFFFFF#32)]) (fun t => [t.pc, readReg t 10#5, memValue t 0x20000000#32 4]) =
      some [0x1004#32, 0xFFFFFFFF#32, 0x0#32] := by decide

/-- 2.5: `00b5a5af` amoadd.w a1, a1, (a1) (rd = rs1 = rs2: address and addend are the old a1). -/
theorem test_amoadd_w_2 :
    stepped 32 0x00b5a5af (start [(11#5, 0x20000000#32)] [(0x20000000#32, 0x5#32)]) (fun t => [t.pc, readReg t 11#5, memValue t 0x20000000#32 4]) =
      some [0x1004#32, 0x5#32, 0x20000005#32] := by decide

/-- 2.5: `20c5a52f` amoxor.w a0, a2, (a1). -/
theorem test_amoxor_w :
    stepped 32 0x20c5a52f (start [(11#5, 0x20000000#32), (12#5, 0xFF00FF0#32)] [(0x20000000#32, 0xFF00FF00#32)]) (fun t => [t.pc, readReg t 10#5, memValue t 0x20000000#32 4]) =
      some [0x1004#32, 0xFF00FF00#32, 0xF0F0F0F0#32] := by decide

/-- 2.5: `60c5a52f` amoand.w a0, a2, (a1). -/
theorem test_amoand_w :
    stepped 32 0x60c5a52f (start [(11#5, 0x20000000#32), (12#5, 0xFF00FF0#32)] [(0x20000000#32, 0xFF00FF00#32)]) (fun t => [t.pc, readReg t 10#5, memValue t 0x20000000#32 4]) =
      some [0x1004#32, 0xFF00FF00#32, 0xF000F00#32] := by decide

/-- 2.5: `40c5a52f` amoor.w a0, a2, (a1). -/
theorem test_amoor_w :
    stepped 32 0x40c5a52f (start [(11#5, 0x20000000#32), (12#5, 0xFF00FF0#32)] [(0x20000000#32, 0xFF00FF00#32)]) (fun t => [t.pc, readReg t 10#5, memValue t 0x20000000#32 4]) =
      some [0x1004#32, 0xFF00FF00#32, 0xFFF0FFF0#32] := by decide

/-- 2.5: `80c5a52f` amomin.w a0, a2, (a1) (signed). -/
theorem test_amomin_w :
    stepped 32 0x80c5a52f (start [(11#5, 0x20000000#32), (12#5, 0x1#32)] [(0x20000000#32, 0x80000000#32)]) (fun t => [t.pc, readReg t 10#5, memValue t 0x20000000#32 4]) =
      some [0x1004#32, 0x80000000#32, 0x80000000#32] := by decide

/-- 2.5: `a0c5a52f` amomax.w a0, a2, (a1). -/
theorem test_amomax_w :
    stepped 32 0xa0c5a52f (start [(11#5, 0x20000000#32), (12#5, 0x1#32)] [(0x20000000#32, 0x80000000#32)]) (fun t => [t.pc, readReg t 10#5, memValue t 0x20000000#32 4]) =
      some [0x1004#32, 0x80000000#32, 0x1#32] := by decide

/-- 2.5: `c0c5a52f` amominu.w a0, a2, (a1) (unsigned). -/
theorem test_amominu_w :
    stepped 32 0xc0c5a52f (start [(11#5, 0x20000000#32), (12#5, 0x1#32)] [(0x20000000#32, 0x80000000#32)]) (fun t => [t.pc, readReg t 10#5, memValue t 0x20000000#32 4]) =
      some [0x1004#32, 0x80000000#32, 0x1#32] := by decide

/-- 2.5: `e0c5a52f` amomaxu.w a0, a2, (a1). -/
theorem test_amomaxu_w :
    stepped 32 0xe0c5a52f (start [(11#5, 0x20000000#32), (12#5, 0x1#32)] [(0x20000000#32, 0x80000000#32)]) (fun t => [t.pc, readReg t 10#5, memValue t 0x20000000#32 4]) =
      some [0x1004#32, 0x80000000#32, 0x80000000#32] := by decide

/-- 2.6: `0060` c.addi4spn s0, sp, 12. -/
theorem test_c_addi4spn :
    stepped 16 0x0060 (start [(2#5, 0x20001000#32)] []) (fun t => [t.pc, readReg t 8#5]) =
      some [0x1002#32, 0x2000100C#32] := by decide

/-- 2.6: `41c8` c.lw a0, 4(a1). -/
theorem test_c_lw :
    stepped 16 0x41c8 (start [(11#5, 0x20000000#32)] [(0x20000004#32, 0xCAFEF00D#32)]) (fun t => [t.pc, readReg t 10#5]) =
      some [0x1002#32, 0xCAFEF00D#32] := by decide

/-- 2.6: `4188` c.lw a0, 0(a1). -/
theorem test_c_lw_2 :
    stepped 16 0x4188 (start [(11#5, 0x20000002#32)] []) (fun t => [t.pc, csrRead t .mepc, csrRead t .mcause, csrRead t .mtval]) =
      some [0x400#32, 0x1000#32, 0x30000004#32, 0x20000002#32] := by decide

/-- 2.6: `c588` c.sw a0, 8(a1). -/
theorem test_c_sw :
    stepped 16 0xc588 (start [(10#5, 0x11223344#32), (11#5, 0x20000000#32)] []) (fun t => [t.pc, memValue t 0x20000008#32 4]) =
      some [0x1002#32, 0x11223344#32] := by decide

/-- 2.6: `c188` c.sw a0, 0(a1). -/
theorem test_c_sw_2 :
    stepped 16 0xc188 (start [(10#5, 0x1#32), (11#5, 0x20000001#32)] []) (fun t => [t.pc, csrRead t .mepc, csrRead t .mcause, csrRead t .mtval]) =
      some [0x400#32, 0x1000#32, 0x30000006#32, 0x20000001#32] := by decide

/-- 2.6: `0001` c.nop. -/
theorem test_c_nop :
    stepped 16 0x0001 (start [] []) (fun t => [t.pc]) =
      some [0x1002#32] := by decide

/-- 2.6: `157d` c.addi a0, -1. -/
theorem test_c_addi :
    stepped 16 0x157d (start [(10#5, 0x0#32)] []) (fun t => [t.pc, readReg t 10#5]) =
      some [0x1002#32, 0xFFFFFFFF#32] := by decide

/-- 2.6: `1501` c.addi a0, -32. -/
theorem test_c_addi_2 :
    stepped 16 0x1501 (start [(10#5, 0x20#32)] []) (fun t => [t.pc, readReg t 10#5]) =
      some [0x1002#32, 0x0#32] := by decide

/-- 2.6: `2ffd` c.jal 2046. -/
theorem test_c_jal :
    stepped 16 0x2ffd (start [] []) (fun t => [t.pc, readReg t 1#5]) =
      some [0x17FE#32, 0x1002#32] := by decide

/-- 2.6: `557d` c.li a0, -1. -/
theorem test_c_li :
    stepped 16 0x557d (start [] []) (fun t => [t.pc, readReg t 10#5]) =
      some [0x1002#32, 0xFFFFFFFF#32] := by decide

/-- 2.6: `617d` c.addi16sp sp, 496. -/
theorem test_c_addi16sp :
    stepped 16 0x617d (start [(2#5, 0x20000000#32)] []) (fun t => [t.pc, readReg t 2#5]) =
      some [0x1002#32, 0x200001F0#32] := by decide

/-- 2.6: `6505` c.lui a0, 0x1. -/
theorem test_c_lui :
    stepped 16 0x6505 (start [] []) (fun t => [t.pc, readReg t 10#5]) =
      some [0x1002#32, 0x1000#32] := by decide

/-- 2.6: `817d` c.srli a0, 31. -/
theorem test_c_srli :
    stepped 16 0x817d (start [(10#5, 0x80000001#32)] []) (fun t => [t.pc, readReg t 10#5]) =
      some [0x1002#32, 0x1#32] := by decide

/-- 2.6: `8505` c.srai a0, 1. -/
theorem test_c_srai :
    stepped 16 0x8505 (start [(10#5, 0x80000001#32)] []) (fun t => [t.pc, readReg t 10#5]) =
      some [0x1002#32, 0xC0000000#32] := by decide

/-- 2.6: `857d` c.srai a0, 31. -/
theorem test_c_srai_2 :
    stepped 16 0x857d (start [(10#5, 0x80000001#32)] []) (fun t => [t.pc, readReg t 10#5]) =
      some [0x1002#32, 0xFFFFFFFF#32] := by decide

/-- 2.6: `9941` c.andi a0, -16. -/
theorem test_c_andi :
    stepped 16 0x9941 (start [(10#5, 0x12345678#32)] []) (fun t => [t.pc, readReg t 10#5]) =
      some [0x1002#32, 0x12345670#32] := by decide

/-- 2.6: `8d0d` c.sub a0, a1. -/
theorem test_c_sub :
    stepped 16 0x8d0d (start [(10#5, 0x1#32), (11#5, 0x2#32)] []) (fun t => [t.pc, readReg t 10#5]) =
      some [0x1002#32, 0xFFFFFFFF#32] := by decide

/-- 2.6: `8d2d` c.xor a0, a1. -/
theorem test_c_xor :
    stepped 16 0x8d2d (start [(10#5, 0xFF00FF00#32), (11#5, 0xFF00FF0#32)] []) (fun t => [t.pc, readReg t 10#5]) =
      some [0x1002#32, 0xF0F0F0F0#32] := by decide

/-- 2.6: `8d4d` c.or a0, a1. -/
theorem test_c_or :
    stepped 16 0x8d4d (start [(10#5, 0xFF00FF00#32), (11#5, 0xFF00FF0#32)] []) (fun t => [t.pc, readReg t 10#5]) =
      some [0x1002#32, 0xFFF0FFF0#32] := by decide

/-- 2.6: `8d6d` c.and a0, a1. -/
theorem test_c_and :
    stepped 16 0x8d6d (start [(10#5, 0xFF00FF00#32), (11#5, 0xFF00FF0#32)] []) (fun t => [t.pc, readReg t 10#5]) =
      some [0x1002#32, 0xF000F00#32] := by decide

/-- 2.6: `bffd` c.j -2. -/
theorem test_c_j :
    stepped 16 0xbffd (start [] []) (fun t => [t.pc]) =
      some [0xFFE#32] := by decide

/-- 2.6: `cd7d` c.beqz a0, 254 (largest forward offset). -/
theorem test_c_beqz :
    stepped 16 0xcd7d (start [(10#5, 0x0#32)] []) (fun t => [t.pc]) =
      some [0x10FE#32] := by decide

/-- 2.6: `cd7d` c.beqz a0, 254. -/
theorem test_c_beqz_2 :
    stepped 16 0xcd7d (start [(10#5, 0x1#32)] []) (fun t => [t.pc]) =
      some [0x1002#32] := by decide

/-- 2.6: `f101` c.bnez a0, -256 (largest backward offset). -/
theorem test_c_bnez :
    stepped 16 0xf101 (start [(10#5, 0x1#32)] []) (fun t => [t.pc]) =
      some [0xF00#32] := by decide

/-- 2.6: `f101` c.bnez a0, -256. -/
theorem test_c_bnez_2 :
    stepped 16 0xf101 (start [(10#5, 0x0#32)] []) (fun t => [t.pc]) =
      some [0x1002#32] := by decide

/-- 2.6: `0ffe` c.slli t6, 31 (full 5-bit register field). -/
theorem test_c_slli :
    stepped 16 0x0ffe (start [(31#5, 0x3#32)] []) (fun t => [t.pc, readReg t 31#5]) =
      some [0x1002#32, 0x80000000#32] := by decide

/-- 2.6: `557e` c.lwsp a0, 252(sp) (largest offset). -/
theorem test_c_lwsp :
    stepped 16 0x557e (start [(2#5, 0x20000000#32)] [(0x200000FC#32, 0xBADCAFE#32)]) (fun t => [t.pc, readReg t 10#5]) =
      some [0x1002#32, 0xBADCAFE#32] := by decide

/-- 2.6: `4502` c.lwsp a0, 0(sp). -/
theorem test_c_lwsp_2 :
    stepped 16 0x4502 (start [(2#5, 0x20000002#32)] []) (fun t => [t.pc, csrRead t .mepc, csrRead t .mcause, csrRead t .mtval]) =
      some [0x400#32, 0x1000#32, 0x30000004#32, 0x20000002#32] := by decide

/-- 2.6: `8082` c.jr ra (bit 0 cleared). -/
theorem test_c_jr :
    stepped 16 0x8082 (start [(1#5, 0x2001#32)] []) (fun t => [t.pc]) =
      some [0x2000#32] := by decide

/-- 2.6: `852e` c.mv a0, a1. -/
theorem test_c_mv :
    stepped 16 0x852e (start [(11#5, 0x55#32)] []) (fun t => [t.pc, readReg t 10#5]) =
      some [0x1002#32, 0x55#32] := by decide

/-- 2.6: `9002` c.ebreak. -/
theorem test_c_ebreak :
    stepped 16 0x9002 (start [] []) (fun t => [t.pc, csrRead t .mepc, csrRead t .mcause]) =
      some [0x400#32, 0x1000#32, 0x30000003#32] := by decide

/-- 2.6: `9582` c.jalr a1 (link = pc + 2). -/
theorem test_c_jalr :
    stepped 16 0x9582 (start [(11#5, 0x2000#32)] []) (fun t => [t.pc, readReg t 1#5]) =
      some [0x2000#32, 0x1002#32] := by decide

/-- 2.6: `9082` c.jalr ra (rs1 = ra: target uses the old value). -/
theorem test_c_jalr_2 :
    stepped 16 0x9082 (start [(1#5, 0x2000#32)] []) (fun t => [t.pc, readReg t 1#5]) =
      some [0x2000#32, 0x1002#32] := by decide

/-- 2.6: `952e` c.add a0, a1. -/
theorem test_c_add :
    stepped 16 0x952e (start [(10#5, 0xFFFFFFFF#32), (11#5, 0x2#32)] []) (fun t => [t.pc, readReg t 10#5]) =
      some [0x1002#32, 0x1#32] := by decide

/-- 2.6: `dfaa` c.swsp a0, 252(sp). -/
theorem test_c_swsp :
    stepped 16 0xdfaa (start [(10#5, 0x11223344#32), (2#5, 0x20000000#32)] []) (fun t => [t.pc, memValue t 0x200000FC#32 4]) =
      some [0x1002#32, 0x11223344#32] := by decide

/-- 2.6: `c02a` c.swsp a0, 0(sp). -/
theorem test_c_swsp_2 :
    stepped 16 0xc02a (start [(10#5, 0x1#32), (2#5, 0x20000002#32)] []) (fun t => [t.pc, csrRead t .mepc, csrRead t .mcause, csrRead t .mtval]) =
      some [0x400#32, 0x1000#32, 0x30000006#32, 0x20000002#32] := by decide

/-- 4.1: `00000073` ecall. -/
theorem test_ecall :
    stepped 32 0x00000073 (start [] []) (fun t => [t.pc, csrRead t .mepc, csrRead t .mcause, csrRead t .mstatus, csrRead t .msubm]) =
      some [0x400#32, 0x1000#32, 0x3000000B#32, 0x1800#32, 0x80#32] := by decide

/-- 4.1: `00000073` ecall. -/
theorem test_ecall_2 :
    stepped 32 0x00000073 (inUserMode (start [] [])) (fun t => [t.pc, csrRead t .mepc, csrRead t .mcause, csrRead t .mstatus, csrRead t .msubm]) =
      some [0x400#32, 0x1000#32, 0x8#32, 0x0#32, 0x80#32] := by decide

/-- 4.1: `00100073` ebreak. -/
theorem test_ebreak :
    stepped 32 0x00100073 (start [] []) (fun t => [t.pc, csrRead t .mepc, csrRead t .mcause, csrRead t .mstatus, csrRead t .msubm]) =
      some [0x400#32, 0x1000#32, 0x30000003#32, 0x1800#32, 0x80#32] := by decide

/-- 4.1: `00100073` ebreak. -/
theorem test_ebreak_2 :
    stepped 32 0x00100073 (inUserMode (start [] [])) (fun t => [t.pc, csrRead t .mepc, csrRead t .mcause, csrRead t .mstatus, csrRead t .msubm]) =
      some [0x400#32, 0x1000#32, 0x3#32, 0x0#32, 0x80#32] := by decide

/-- 4.1: `30200073` mret (mret in User Mode is illegal). -/
theorem test_mret :
    stepped 32 0x30200073 (inUserMode (start [] [])) (fun t => [t.pc, csrRead t .mepc, csrRead t .mcause, csrRead t .mtval]) =
      some [0x400#32, 0x1000#32, 0x2#32, 0x30200073#32] := by decide

/-- 4.1: `10500073` wfi (no wake-up condition holds: the hart sleeps with pc already advanced). -/
theorem test_wfi :
    stepped 32 0x10500073 (start [] []) (fun t => [t.pc]) =
      some [0x1004#32] := by decide

/-- 4.1: `10500073` wfi (legal in User Mode). -/
theorem test_wfi_2 :
    stepped 32 0x10500073 (inUserMode (start [] [])) (fun t => [t.pc]) =
      some [0x1004#32] := by decide

/-- 4.2: `34059573` csrrw a0, mscratch, a1. -/
theorem test_csrrw :
    stepped 32 0x34059573 (withCsr .mscratch 0xCAFEBABE#32 (start [(11#5, 0x12345678#32)] [])) (fun t => [t.pc, readReg t 10#5, csrRead t .mscratch]) =
      some [0x1004#32, 0xCAFEBABE#32, 0x12345678#32] := by decide

/-- 4.2: `34002573` csrrs a0, mscratch, zero (rs1 = x0: the CSR is not written (csrr a0, mscratch)). -/
theorem test_csrrs :
    stepped 32 0x34002573 (withCsr .mscratch 0xCAFEBABE#32 (start [] [])) (fun t => [t.pc, readReg t 10#5, csrRead t .mscratch]) =
      some [0x1004#32, 0xCAFEBABE#32, 0xCAFEBABE#32] := by decide

/-- 4.2: `3405b573` csrrc a0, mscratch, a1. -/
theorem test_csrrc :
    stepped 32 0x3405b573 (withCsr .mscratch 0xCAFEBABE#32 (start [(11#5, 0xFFFF0000#32)] [])) (fun t => [t.pc, readReg t 10#5, csrRead t .mscratch]) =
      some [0x1004#32, 0xCAFEBABE#32, 0xBABE#32] := by decide

/-- 4.2: `340fd573` csrrwi a0, mscratch, 31 (5-bit immediate zero-extended). -/
theorem test_csrrwi :
    stepped 32 0x340fd573 (withCsr .mscratch 0xCAFEBABE#32 (start [] [])) (fun t => [t.pc, readReg t 10#5, csrRead t .mscratch]) =
      some [0x1004#32, 0xCAFEBABE#32, 0x1F#32] := by decide

/-- 4.2: `30046073` csrrsi zero, mstatus, 8 (MIE = 1). -/
theorem test_csrrsi :
    stepped 32 0x30046073 (start [] []) (fun t => [t.pc, csrRead t .mstatus]) =
      some [0x1004#32, 0x8#32] := by decide

/-- 4.2: `30047073` csrrci zero, mstatus, 8. -/
theorem test_csrrci :
    stepped 32 0x30047073 (withCsr .mstatus 0x88#32 (start [] [])) (fun t => [t.pc, csrRead t .mstatus]) =
      some [0x1004#32, 0x80#32] := by decide

/-! ## Hypotheses that are met

For every statement with hypotheses, a state and operands that meet them together, clause by clause. `start` has RAM at
0x00000000 to 0x0000FFFF and 0x20000000 to 0x2000FFFF, the TIMER at 0xD1000000, the ECLIC at 0xD2000000. -/

/-- `start` with a ROM at 0x30000000 and another device at 0x31000000. -/
def withMap (s : State) : State :=
  { s with cfg := { s.cfg with
      memMap := s.cfg.memMap ++ [⟨0x30000000#32, 0x1000, .rom⟩, ⟨0x31000000#32, 0x1000, .device false⟩] } }

/-- `start` with source 19 enabled, pending on an edge, at level 0x7F, vectored or not, interrupts enabled. -/
def pending19 (shv : Bool) (mtvt : Word) : State :=
  { start [] [] with
    csr := { (start [] []).csr with
      mtvec := 0x403#32, mtvt := mtvt, mstatus := ⟨true, false, .M, 0#2⟩ },
    eclic := ⟨4#4, 0#8, (List.replicate 32 Source.reset).set 19 ⟨true, true, 1#2, shv, 0x70#8, false⟩⟩ }

/-- A state whose next step executes the word `w` of `n` bits. -/
def at1000 (n w : Nat) : State := (start [] []).withFetchWord n w

/-- The request of `pending19`. -/
def request19 (shv : Bool) : Candidate := { id := 19, level := 0x7F#8, priority := 0xFF#8, shv := shv }

theorem nothingDue_of {b : State} (h1 : nmiTakeable b = false)
    (h2 : (b.cfg.busErrorAsException && b.busErr.pending) = false) (h3 : takeableInterrupt b = none) : NothingDue b where
  noNmi h := by rw [← nmiTakeable_iff, h1] at h; cases h
  noBusError h := by rw [← busErrorTakeable_iff, h2] at h; cases h
  noRequest r h := by rw [← takeableInterrupt_iff, h3] at h; cases h

theorem interruptDue_of {b : State} {r : Candidate} (h1 : nmiTakeable b = false)
    (h2 : (b.cfg.busErrorAsException && b.busErr.pending) = false) (h3 : takeableInterrupt b = some r) :
    InterruptDue b r where
  noNmi h := by rw [← nmiTakeable_iff, h1] at h; cases h
  noBusError h := by rw [← busErrorTakeable_iff, h2] at h; cases h
  request := (takeableInterrupt_iff _ _).1 h3

theorem witness_ResetMeetsInvariant : Config.standard.wf = true := by decide

theorem next_of {o : Host.Outcome State Fault Refusal}
    (h : (match o with | .next _ => true | .fault _ => false | .refused _ => false) = true) : ∃ t, o = .next t := by
  cases o with
  | next t => exact ⟨t, rfl⟩
  | fault r => cases h
  | refused r => cases h

theorem witness_StepKeepsInvariant :
    Inv (start [] []) ∧ ∃ t, step ((start [] []).withFetchWord 32 0x00158513) = .next t := by
  have hr : ∀ i, sourceAt (start [] []).eclic i = Source.reset := by
    intro i
    show (List.replicate 32 Source.reset).getD i Source.reset = Source.reset
    rw [List.getD_eq_getElem?_getD, List.getElem?_replicate]
    split <;> rfl
  refine ⟨⟨by decide, by decide, by decide, by decide, by decide, by decide, by decide, by decide, (fun h => by cases h),
    ?_, (fun r h => by cases h), by decide, by decide⟩, next_of (by decide)⟩
  exact ⟨by decide, fun i _ => hr i, fun i => by rw [hr i]; exact BitVec.zero_and⟩

theorem witness_UserModeIsConfined :
    (inUserMode (start [] [])).priv = .U ∧
    (∃ t, exec (.addi 10#5 11#5 1#12) (inUserMode (start [] [])) = .next t ∧ t.priv = .U) ∧
    (∃ t, exec .ecall (inUserMode (start [] [])) = .next t ∧ t.priv = .M) ∧
    (∀ s ∈ [inUserMode (at1000 32 0x73), inUserMode (pending19 false 0x200#32),
        { inUserMode (start [] []) with nmiPending := true }],
      s.priv = .U ∧ (match step s with | .next t => t.priv | .fault _ => .U | .refused _ => .U) = .M) :=
  ⟨rfl, ⟨_, rfl, rfl⟩, ⟨_, rfl, rfl⟩, by decide⟩

theorem witness_OnlyMretEntersUserMode :
    (start [] []).priv = .M ∧ ∃ t, exec .mret (start [] []) = .next t ∧ t.priv = .U := ⟨rfl, _, rfl, by decide⟩

theorem witness_OnlyStoresChangeMemory :
    ¬ MayStore (.addi 10#5 11#5 1#12) ∧ (∀ imm rs1 rd, Instr.addi 10#5 11#5 1#12 ≠ .fenceI imm rs1 rd) ∧
    ∃ t, exec (.addi 10#5 11#5 1#12) (start [] []) = .next t := by
  refine ⟨?_, by intros; exact Instr.noConfusion, _, rfl⟩
  rintro (⟨_, _, _, _, _, h⟩ | ⟨_, _, _, _, h⟩ | ⟨_, _, _, _, _, h⟩ | ⟨_, _, _, h⟩) <;> cases h

theorem witness_DecodeEncode : (Instr.cAddi 10#5 63#6).wellFormed = true ∧ (Instr.lui 0#5 0#20).wellFormed = true := by
  decide

theorem witness_EncodeDecode :
    decode [0x7D#8, 0x15#8, 0xFF#8] = .ok (.cAddi 10#5 63#6, [0xFF#8]) ∧
    decode [0x13#8, 0x85#8, 0x15#8, 0x00#8] = .ok (.addi 10#5 11#5 1#12, []) := ⟨rfl, rfl⟩

/-- Bus masters write the byte before, the first, the last and the byte after the word reserved at 0x20000004, one of them
twice, and a ROM. -/
def busWritten (ws : List (Word × Byte)) : State :=
  reserving 0x20000004#32 { withMap (start [] []) with future := [{ EnvInput.quiet with busWrites := ws }] }

/-- R141, R146, log 20: the last value is there, other bytes and ROM are kept, old bytes stay fetchable, the reservation
goes with its first and its last byte and stays beside it. -/
theorem witness_SamplingFrame :
    (busWritten []).mem.wf = true ∧ (busWritten []).stale.wf = true ∧
    (∀ w ∈ [0x20000004#32, 0x20000007#32], ∀ t, t = sampleInputs (busWritten [(w, 1#8), (w, 2#8), (0x30000000#32, 3#8)]) →
      lastWritten t.now.busWrites w = some 2#8 ∧ placeOf t.cfg w = .ram ∧ byteAt t w = 2#8 ∧
      lastWritten t.now.busWrites 0x20000005#32 = none ∧ byteAt t 0x20000005#32 = 0#8 ∧
      placeOf t.cfg 0x30000000#32 = .rom ∧ byteAt t 0x30000000#32 = 0#8 ∧ fetchSees t true w = 0#8 ∧
      t.reservation = none) ∧
    (∀ w ∈ [0x20000003#32, 0x20000008#32, 0x30000000#32], ∀ t, t = sampleInputs (busWritten [(w, 1#8)]) →
      t.reservation = some 0x20000004#32) := by
  refine ⟨by decide, by decide, ?_, ?_⟩ <;> intro w hw t ht <;> subst ht <;> simp only [List.mem_cons, List.not_mem_nil,
    or_false] at hw
  · rcases hw with rfl | rfl <;> decide
  · rcases hw with rfl | rfl | rfl <;> decide

theorem witness_SourcesAreSampled :
    (start [] []).eclic.sources.length = (start [] []).cfg.numInterrupt ∧
    (∀ i ∈ [0, 18, 32], sourceExists (start [] []).cfg i = false) ∧
    (∀ i ∈ [3, 7, 17, 19, 31], sourceExists (start [] []).cfg i = true) := by decide

theorem at1000_due (n w : Nat) (h : takeableInterrupt (atBoundary (at1000 n w)) = none)
    (h1 : nmiTakeable (atBoundary (at1000 n w)) = false)
    (h2 : ((atBoundary (at1000 n w)).cfg.busErrorAsException && (atBoundary (at1000 n w)).busErr.pending) = false) :
    NothingDue (atBoundary (at1000 n w)) := nothingDue_of h1 h2 h

theorem witness_StepRunsDecoded :
    Awake (at1000 32 0x00158513) ∧ NothingDue (atBoundary (at1000 32 0x00158513)) ∧
    CanFetchLow (atBoundary (at1000 32 0x00158513)) ∧ CanFetchHigh (atBoundary (at1000 32 0x00158513)) ∧
    decode [(fetchedLow (atBoundary (at1000 32 0x00158513))).extractLsb' 0 8,
      (fetchedLow (atBoundary (at1000 32 0x00158513))).extractLsb' 8 8,
      (fetchedHigh (atBoundary (at1000 32 0x00158513))).extractLsb' 0 8,
      (fetchedHigh (atBoundary (at1000 32 0x00158513))).extractLsb' 8 8] = .ok (.addi 10#5 11#5 1#12, []) ∧
    inMemory (atBoundary (at1000 32 0x00158513)) (atBoundary (at1000 32 0x00158513)).pc ∧
    inMemory (atBoundary (at1000 32 0x00158513)) ((atBoundary (at1000 32 0x00158513)).pc + 2#32) ∧
    FetchesCurrent (atBoundary (at1000 32 0x00158513)) :=
  ⟨.inl rfl, nothingDue_of (by decide) (by decide) (by decide), .inl (.inl (by decide)), .inl (.inl (by decide)), by
      rw [show fetchedLow (atBoundary (at1000 32 0x00158513)) = 0x8513#16 by decide,
        show fetchedHigh (atBoundary (at1000 32 0x00158513)) = 0x0015#16 by decide]; rfl,
    .inl (by decide), .inl (by decide), .inr (by decide)⟩

/-- The same with the low half of `00158593` (`addi a1, a1, 1`) and the high half of `ff958513` (`addi a0, a1, -7`) stored
over it without `fence.i`; `old` and `oldHi`: the parcels fetched are those from before. -/
def overwritten (old oldHi : Bool) : State :=
  { storeBytes 0x1000#32 4 0xff958593#32 (at1000 32 0x00158513) with
    future := [{ EnvInput.quiet with fetchOld := old, fetchOldHi := oldHi }] }

/-- Fetches that see old bytes: what is fetched is old or new by the parcel (U44). -/
theorem witness_StepRunsDecoded_old :
    (∀ o h, Awake (overwritten o h) ∧ NothingDue (atBoundary (overwritten o h)) ∧
      CanFetchLow (atBoundary (overwritten o h)) ∧ CanFetchHigh (atBoundary (overwritten o h))) ∧
    (fetchedLow (atBoundary (overwritten true true)) = 0x8513#16 ∧
      fetchedHigh (atBoundary (overwritten true true)) = 0x0015#16) ∧
    (fetchedLow (atBoundary (overwritten false true)) = 0x8593#16 ∧
      fetchedHigh (atBoundary (overwritten false true)) = 0x0015#16) ∧
    (fetchedLow (atBoundary (overwritten true false)) = 0x8513#16 ∧
      fetchedHigh (atBoundary (overwritten true false)) = 0xFF95#16) :=
  ⟨fun o h => ⟨.inl rfl, by cases o <;> cases h <;> exact nothingDue_of (by decide) (by decide) (by decide),
      .inl (.inl (by cases o <;> cases h <;> decide)), .inl (.inl (by cases o <;> cases h <;> decide))⟩,
    by decide, by decide, by decide⟩

theorem witness_StepRefusesIllegalEncoding :
    (Awake (at1000 32 0) ∧ NothingDue (atBoundary (at1000 32 0)) ∧ CanFetchLow (atBoundary (at1000 32 0)) ∧
      isWide (fetchedLow (atBoundary (at1000 32 0))) = false ∧
      decode16 (fetchedLow (atBoundary (at1000 32 0))) = none) ∧
    (Awake (at1000 32 0xFFFFFFFF) ∧ NothingDue (atBoundary (at1000 32 0xFFFFFFFF)) ∧
      CanFetchLow (atBoundary (at1000 32 0xFFFFFFFF)) ∧ CanFetchHigh (atBoundary (at1000 32 0xFFFFFFFF)) ∧
      isWide (fetchedLow (atBoundary (at1000 32 0xFFFFFFFF))) = true ∧
      decode32 (fetchedHigh (atBoundary (at1000 32 0xFFFFFFFF)) ++ fetchedLow (atBoundary (at1000 32 0xFFFFFFFF))) =
        none) :=
  ⟨⟨.inl rfl, nothingDue_of (by decide) (by decide) (by decide), .inl (.inl (by decide)), by decide, by decide⟩,
    ⟨.inl rfl, nothingDue_of (by decide) (by decide) (by decide), .inl (.inl (by decide)), .inl (.inl (by decide)),
      by decide, by decide⟩⟩

/-- The pc where nothing is mapped, and at the last parcel of RAM with a wide parcel there. -/
def atPc (pc : Word) : State := { start [] [(0x2000FFFC#32, 0xFFFF0000#32)] with pc := pc }

/-- The pc in a device the hart may execute from, which answers with `00158513`; `lo` and `hi`: the answer to the first
or the second parcel is an error. -/
def onDevice (lo hi : Bool) : State :=
  { start [] [] with
    pc := 0x32000000#32,
    cfg := { (start [] []).cfg with
      memMap := (start [] []).cfg.memMap ++ [⟨0x32000000#32, 0x1000, .device true⟩] },
    future := [{ EnvInput.quiet with fetchError := lo, fetchErrorHi := hi, fetchData := 0x00158513#32 }] }

theorem not_answered_of {s : State} {err : Bool} {a : Word} (h : placeOf s.cfg a = .nothing) : ¬ Answered s err a := by
  unfold Answered inMemory; rw [h]; simp

theorem not_answered_device {s : State} {a : Word} (h : placeOf s.cfg a = .device true) : ¬ Answered s true a := by
  unfold Answered inMemory; rw [h]; simp

theorem witness_FetchFaults :
    (Awake (atPc 0x40000000#32) ∧ NothingDue (atBoundary (atPc 0x40000000#32)) ∧
      ¬ CanFetchLow (atBoundary (atPc 0x40000000#32))) ∧
    (Awake (atPc 0x2000FFFE#32) ∧ NothingDue (atBoundary (atPc 0x2000FFFE#32)) ∧
      CanFetchLow (atBoundary (atPc 0x2000FFFE#32)) ∧ isWide (fetchedLow (atBoundary (atPc 0x2000FFFE#32))) = true ∧
      ¬ CanFetchHigh (atBoundary (atPc 0x2000FFFE#32))) ∧
    (Awake (onDevice true false) ∧ NothingDue (atBoundary (onDevice true false)) ∧
      ¬ CanFetchLow (atBoundary (onDevice true false))) ∧
    (Awake (onDevice false true) ∧ NothingDue (atBoundary (onDevice false true)) ∧
      CanFetchLow (atBoundary (onDevice false true)) ∧ isWide (fetchedLow (atBoundary (onDevice false true))) = true ∧
      ¬ CanFetchHigh (atBoundary (onDevice false true))) :=
  ⟨⟨.inl rfl, nothingDue_of (by decide) (by decide) (by decide), not_answered_of (by decide)⟩,
    ⟨.inl rfl, nothingDue_of (by decide) (by decide) (by decide), .inl (.inl (by decide)), by decide,
      not_answered_of (by decide)⟩,
    ⟨.inl rfl, nothingDue_of (by decide) (by decide) (by decide), not_answered_device (by decide)⟩,
    ⟨.inl rfl, nothingDue_of (by decide) (by decide) (by decide), .inr ⟨by decide, rfl⟩, by decide,
      not_answered_device (by decide)⟩⟩

/-- R128: on such a device a failing second parcel gives code 1 with `mtval` = pc + 2. -/
theorem test_second_parcel_fails :
    (match step (onDevice false true) with
      | .next t => some [t.csr.mtval, t.csr.mepc, t.csr.mcause.exccode.zeroExtend 32]
      | .fault _ => none
      | .refused _ => none) = some [0x32000002#32, 0x32000000#32, 1#32] := by decide

theorem witness_SleepLastsUntilWoken :
    ({ start [] [] with sleeping := true } : State).sleeping = true ∧
    ¬ WakeCondition (sampleInputs { start [] [] with sleeping := true }) :=
  ⟨rfl, fun h => by
    rw [← wakeCondition_iff, show wakeCondition (sampleInputs { start [] [] with sleeping := true }) = false by decide] at h
    cases h⟩

theorem witness_NmiIsTaken :
    Awake { start [] [] with future := [{ EnvInput.quiet with nmi := true }] } ∧
    NmiDue (atBoundary { start [] [] with future := [{ EnvInput.quiet with nmi := true }] }) :=
  ⟨.inl rfl, (nmiTakeable_iff _).1 (by decide)⟩

/-- A load bus error is recorded, to be taken as an exception. -/
def withBusError (isStore : Bool) : State :=
  { start [] [] with
    cfg := { Config.standard with busErrorAsException := true },
    busErr := { pending := true, isStore := isStore, addr := 0x40000000#32 } }

theorem witness_BusErrorIsTaken :
    ∀ k, Awake (withBusError k) ∧ ¬ NmiDue (atBoundary (withBusError k)) ∧ BusErrorDue (atBoundary (withBusError k)) :=
  fun k => ⟨.inl rfl, (fun (h : NmiDue _) => by
    rw [← nmiTakeable_iff, show nmiTakeable (atBoundary (withBusError k)) = false by cases k <;> decide] at h; cases h),
    by cases k <;> exact (busErrorTakeable_iff _).1 (by decide)⟩

theorem witness_CommonInterruptEntry :
    Awake (pending19 false 0x200#32) ∧ InterruptDue (atBoundary (pending19 false 0x200#32)) (request19 false) ∧
    (atBoundary (pending19 false 0x200#32)).csr.mtvec.extractLsb' 0 6 = 3#6 :=
  ⟨.inl rfl, interruptDue_of (by decide) (by decide) (by decide), by decide⟩

theorem witness_VectoredInterruptEntry :
    Awake (pending19 true 0x200#32) ∧ InterruptDue (atBoundary (pending19 true 0x200#32)) (request19 true) ∧
    (atBoundary (pending19 true 0x200#32)).csr.mtvec.extractLsb' 0 6 = 3#6 ∧
    (atBoundary (pending19 true 0x200#32)).csr.mtvt + 4#32 * BitVec.ofNat 32 19 = 0x24C#32 ∧
    CanReadVector (atBoundary (pending19 true 0x200#32)) 0x24C#32 :=
  ⟨.inl rfl, interruptDue_of (by decide) (by decide) (by decide), by decide, by decide, .inl (.inl (by decide))⟩

theorem witness_FailedVectorRead :
    Awake (pending19 true 0x40000000#32) ∧
    InterruptDue (atBoundary (pending19 true 0x40000000#32)) (request19 true) ∧
    (atBoundary (pending19 true 0x40000000#32)).csr.mtvec.extractLsb' 0 6 = 3#6 ∧
    (atBoundary (pending19 true 0x40000000#32)).csr.mtvt + 4#32 * BitVec.ofNat 32 19 = 0x4000004C#32 ∧
    ¬ CanReadVector (atBoundary (pending19 true 0x40000000#32)) 0x4000004C#32 :=
  ⟨.inl rfl, interruptDue_of (by decide) (by decide) (by decide), by decide, by decide, not_answered_of (by decide)⟩

theorem witness_DefaultInterruptModeStops :
    Awake (withCsr .mtvec 0x400#32 (pending19 false 0x200#32)) ∧
    InterruptDue (atBoundary (withCsr .mtvec 0x400#32 (pending19 false 0x200#32))) (request19 false) ∧
    (atBoundary (withCsr .mtvec 0x400#32 (pending19 false 0x200#32))).csr.mtvec.extractLsb' 0 6 ≠ 3#6 :=
  ⟨.inl rfl, interruptDue_of (by decide) (by decide) (by decide), by decide⟩

theorem witness_RequestIsGreatestContender :
    eclicRequest Config.standard (pending19 false 0#32).eclic = some (request19 false) ∧
    eclicRequest Config.standard (start [] []).eclic = none ∧
    Contends Config.standard (pending19 false 0#32).eclic 19 (sourceAt (pending19 false 0#32).eclic 19) :=
  ⟨by decide, by decide, by decide, rfl, by decide, by decide, by decide⟩

theorem witness_LevelAndPriorityBits :
    (4 = min (pending19 false 0#32).eclic.nlbits.toNat 8 ∧ 0 < 8 ∧ 8 - 4 ≤ 4 ∧ 7 < 8) ∧
    0 = min (start [] []).eclic.nlbits.toNat 8 := by decide

theorem witness_IntegerImmediateResults : 0xFFFFF800#32 = (0x800#12).signExtend 32 := by decide

theorem witness_IntegerRegisterResults :
    0x1F#32 = readReg (start [(11#5, 0x1F#32)] []) 11#5 ∧ 0x3F#32 = readReg (start [(12#5, 0x3F#32)] []) 12#5 ∧
    31 = (0x3F#32).toNat % 32 := by decide

theorem witness_MultiplyResults :
    0x80000000#32 = readReg (start [(11#5, 0x80000000#32)] []) 11#5 ∧ 0#32 = readReg (start [] []) 0#5 := by decide

/-- Divisor 0, the overflow, and an ordinary quotient. -/
theorem witness_DivisionResults :
    0x80000000#32 = readReg (start [(11#5, 0x80000000#32), (12#5, 0xFFFFFFFF#32)] []) 11#5 ∧
    0xFFFFFFFF#32 = readReg (start [(11#5, 0x80000000#32), (12#5, 0xFFFFFFFF#32)] []) 12#5 ∧
    0#32 = readReg (start [] []) 0#5 ∧
    (2#32 ≠ 0#32 ∧ ¬ (0xFFFFFFF9#32 = 0x80000000#32 ∧ 2#32 = 0xFFFFFFFF#32)) := by decide

theorem witness_BranchResults :
    7#32 = readReg (start [(10#5, 7#32), (11#5, 8#32)] []) 10#5 ∧ 8#32 = readReg (start [(10#5, 7#32), (11#5, 8#32)] []) 11#5 ∧
    0xFF0#32 = (start [] []).pc + (0xFF8#12 ++ 0#1).signExtend 32 ∧ 0x1004#32 = (start [] []).pc + 4#32 := by decide

theorem witness_LoadsFromMemory :
    inMemory (start [(11#5, 0x20000000#32)] []) 0x20000000#32 ∧
    0x20000000#32 = readReg (start [(11#5, 0x20000000#32)] []) 11#5 + (0#12).signExtend 32 ∧
    0x2000FFFF#32 = readReg (start [(11#5, 0x2000FFF0#32)] []) 11#5 + (0xF#12).signExtend 32 ∧
    inMemory (start [(11#5, 0x2000FFF0#32)] []) 0x2000FFFF#32 ∧
    (0x20000000#32).toNat % 2 = 0 ∧ (0x20000000#32).toNat % 4 = 0 ∧
    0x20000000#32 = readReg (start [(11#5, 0x20000000#32)] []) (1#2 ++ 3#3) + (0#5 ++ 0#2).zeroExtend 32 ∧
    0x20000000#32 = readReg (start [(2#5, 0x20000000#32)] []) 2#5 + (0#6 ++ 0#2).zeroExtend 32 :=
  ⟨.inl (by decide), by decide, by decide, .inl (by decide), by decide, by decide, by decide, by decide⟩

theorem witness_StoresToRam :
    Store (.sw 10#5 11#5 0#12) 10#5 11#5 ((0#12).signExtend 32) 4 4#32 ∧
    Store (.sb 10#5 11#5 3#12) 10#5 11#5 ((3#12).signExtend 32) 1 4#32 ∧
    (start [(11#5, 0x20000000#32)] []).mem.wf = true ∧
    0x20000000#32 = readReg (start [(11#5, 0x20000000#32)] []) 11#5 + (0#12).signExtend 32 ∧
    placeOf (start [] []).cfg 0x20000000#32 = .ram ∧ placeOf (start [] []).cfg 0x20000003#32 = .ram ∧
    (0x20000000#32).toNat % 4 = 0 ∧ (0x20000003#32).toNat % 1 = 0 :=
  ⟨.sw _ _ _, .sb _ _ _, by decide, by decide, by decide, by decide, by decide, by decide⟩

theorem witness_MisalignedAccessTraps :
    Load (.lh 10#5 11#5 1#12) 10#5 11#5 ((1#12).signExtend 32) .signed16 4#32 ∧
    (readReg (start [(11#5, 0x20000000#32)] []) 11#5 + (1#12).signExtend 32).toNat % Extend.signed16.size ≠ 0 ∧
    Store (.sw 10#5 11#5 2#12) 10#5 11#5 ((2#12).signExtend 32) 4 4#32 ∧
    (readReg (start [(11#5, 0x20000000#32)] []) 11#5 + (2#12).signExtend 32).toNat % 4 ≠ 0 ∧
    Amo (.amoaddW 10#5 12#5 11#5 0#1 0#1) 10#5 12#5 11#5 (fun t v => t + v) ∧
    (readReg (start [(11#5, 0x20000003#32)] []) 11#5).toNat % 4 ≠ 0 :=
  ⟨.lh _ _ _, by decide, .sw _ _ _, by decide, .add _ _ _ _ _, by decide⟩

theorem witness_LoadsOutsideMemory :
    Load (.lw 10#5 11#5 0#12) 10#5 11#5 ((0#12).signExtend 32) .word 4#32 ∧
    0x40000000#32 = readReg (start [(11#5, 0x40000000#32)] []) 11#5 + (0#12).signExtend 32 ∧
    (0x40000000#32).toNat % Extend.word.size = 0 ∧ placeOf (start [] []).cfg 0x40000000#32 = .nothing ∧
    0x31000000#32 = readReg (withMap (start [(11#5, 0x31000000#32)] [])) 11#5 + (0#12).signExtend 32 ∧
    (0x31000000#32).toNat % Extend.word.size = 0 ∧ placeOf (withMap (start [] [])).cfg 0x31000000#32 = .device false :=
  ⟨.lw _ _ _, by decide, by decide, by decide, by decide, by decide, by decide⟩

theorem witness_StoresOutsideRam :
    Store (.sw 10#5 11#5 0#12) 10#5 11#5 ((0#12).signExtend 32) 4 4#32 ∧
    (∀ a, a = readReg (withMap (start [(11#5, a)] [])) 11#5 + (0#12).signExtend 32) ∧
    (∀ a ∈ [0x40000000#32, 0x30000000#32, 0x31000000#32], a.toNat % 4 = 0) ∧
    placeOf (withMap (start [] [])).cfg 0x40000000#32 = .nothing ∧
    placeOf (withMap (start [] [])).cfg 0x30000000#32 = .rom ∧
    placeOf (withMap (start [] [])).cfg 0x31000000#32 = .device false :=
  ⟨.sw _ _ _, fun _ => (BitVec.add_zero _).symm, by simp, by decide, by decide, by decide⟩

theorem witness_TimerAccess :
    (∀ k ∈ [0x000, 0x004, 0x008, 0x00C, 0x010, 0xFF4, 0xFF8, 0xFFC],
      placeOf (start [] []).cfg (0xD1000000#32 + BitVec.ofNat 32 k) = .timer ∧
      k = (0xD1000000#32 + BitVec.ofNat 32 k - (start [] []).cfg.timerBase).toNat ∧
      (0xD1000000#32 + BitVec.ofNat 32 k).toNat % 4 = 0) ∧
    0xD1000008#32 = readReg (start [(11#5, 0xD1000000#32)] []) 11#5 + (8#12).signExtend 32 ∧
    Load (.lw 10#5 11#5 8#12) 10#5 11#5 ((8#12).signExtend 32) .word 4#32 ∧
    Store (.sw 10#5 11#5 8#12) 10#5 11#5 ((8#12).signExtend 32) 4 4#32 ∧
    Load (.lb 10#5 11#5 8#12) 10#5 11#5 ((8#12).signExtend 32) .signed8 4#32 ∧ Extend.signed8 ≠ .word ∧
    Store (.sh 10#5 11#5 8#12) 10#5 11#5 ((8#12).signExtend 32) 2 4#32 ∧ 2 ≠ 4 ∧ (0xD1000008#32).toNat % 2 = 0 :=
  ⟨by decide, by decide, .lw _ _ _, .sw _ _ _, .lb _ _ _, by decide, .sh _ _ _, by decide, by decide⟩

/-- Offsets at the edges of every clause of `EclicByte`; sources 3 (exists), 4 and 32 (do not). -/
theorem witness_EclicReads :
    Load (.lbu 10#5 11#5 0xC#12) 10#5 11#5 ((0xC#12).signExtend 32) .unsigned8 4#32 ∧
    Load (.lw 10#5 11#5 0xC#12) 10#5 11#5 ((0xC#12).signExtend 32) .word 4#32 ∧
    0xD200100C#32 = readReg (start [(11#5, 0xD2001000#32)] []) 11#5 + (0xC#12).signExtend 32 ∧
    (0xD200100C#32).toNat % Extend.unsigned8.size = 0 ∧ (0xD200100C#32).toNat % Extend.word.size = 0 ∧
    (∀ k ∈ [0x0000, 0x0001, 0x0003, 0x0004, 0x0007, 0x0008, 0x000A, 0x000B, 0x000C, 0x0FFF, 0x100C, 0x100D, 0x100E,
        0x100F, 0x1010, 0x1013, 0x1080, 0x1083],
      placeOf (start [] []).cfg (0xD2000000#32 + BitVec.ofNat 32 k) = .eclic ∧
      k = (0xD2000000#32 + BitVec.ofNat 32 k - (start [] []).cfg.eclicBase).toNat) ∧
    sourceExists (start [] []).cfg 3 = true ∧ 0x100C = 0x1000 + 4 * 3 ∧ 0x100F = 0x1003 + 4 * 3 ∧
    sourceExists (start [] []).cfg 4 = false ∧ 0x1000 + 4 * 4 ≤ 0x1013 ∧ 0x1013 < 0x1004 + 4 * 4 ∧
    sourceExists (start [] []).cfg 32 = false ∧ 0x1000 + 4 * 32 = 0x1080 :=
  ⟨.lbu _ _ _, .lw _ _ _, by decide, by decide, by decide, by decide, by decide, by decide, by decide, by decide,
    by decide, by decide, by decide, by decide⟩

/-- A byte and a word of source 3's registers, the word that holds `mth`, and a word of a source that does not exist. -/
theorem witness_EclicWrites :
    Store (.sb 10#5 11#5 0xC#12) 10#5 11#5 ((0xC#12).signExtend 32) 1 4#32 ∧
    Store (.sw 10#5 11#5 0xC#12) 10#5 11#5 ((0xC#12).signExtend 32) 4 4#32 ∧
    0xD200100C#32 = readReg (start [(11#5, 0xD2001000#32)] []) 11#5 + (0xC#12).signExtend 32 ∧
    placeOf (start [] []).cfg 0xD200100C#32 = .eclic ∧
    (0xD200100C#32).toNat % 1 = 0 ∧ (0xD200100C#32).toNat % 4 = 0 ∧
    (start [] []).eclic.sources.length = (start [] []).cfg.numInterrupt ∧
    storedByte 0x100C 4 0x44332211#32 0x100E = some 0x33#8 ∧ storedByte 0x100C 1 0x44332211#32 0x100D = none ∧
    storedByte 0x0008 4 0x44332211#32 0x000B = some 0x44#8 ∧ storedByte 0x0004 4 0x44332211#32 0x000B = none ∧
    sourceExists (start [] []).cfg 3 = true ∧ sourceExists (start [] []).cfg 4 = false :=
  ⟨.sb _ _ _, .sw _ _ _, by decide, by decide, by decide, by decide, by decide, by decide, by decide, by decide,
    by decide, by decide, by decide⟩

theorem witness_MretFromException :
    (start [] []).priv = .M ∧ (start [] []).csr.mcause.interrupt = false := by decide

theorem witness_MretFromInterrupt :
    (withCsr .mcause 0x88000013#32 (start [] [])).priv = .M ∧
    (withCsr .mcause 0x88000013#32 (start [] [])).csr.mcause.interrupt = true := by decide

theorem witness_WfiResult :
    ({ start [] [] with busErr := ⟨true, false, 0#32⟩ } : State).busErr.pending = true ∧
    WakeCondition (pending19 false 0#32) ∧ (start [] []).busErr.pending = false ∧ ¬ WakeCondition (start [] []) :=
  ⟨rfl, (wakeCondition_iff _).1 (by decide), rfl, fun h => by
    rw [← wakeCondition_iff, show wakeCondition (start [] []) = false by decide] at h; cases h⟩

/-- `csrrw`, and `csrrs` without a write, on `mscratch`; a read of `cycle` in User Mode that `mcounteren` allows. -/
theorem witness_CsrInstructionsComplete :
    csrOfAddr 0x340#12 = some (.reg .mscratch) ∧
    csrAllowed (start [] []) (.reg .mscratch) (CsrForm.rw.writes 11#5) = true ∧
    csrAllowed (start [] []) (.reg .mscratch) (CsrForm.rs.writes 0#5) = true ∧ CsrForm.rs.writes 0#5 = false ∧
    csrOfAddr 0xC00#12 = some (.reg .cycle) ∧
    csrAllowed (inUserMode (withCsr .mcounteren 7#32 (start [] []))) (.reg .cycle) (CsrForm.rs.writes 0#5) = true := by
  decide

theorem witness_CsrWriteReadsBack :
    csrOfAddr 0x342#12 = some (.reg .mcause) ∧ csrOfAddr 0x307#12 = some (.reg .mtvt) ∧
    csrAllowed (start [] []) (.reg .mtvt) (CsrForm.rw.writes 11#5) = true ∧ CsrForm.rw.writes 11#5 = true ∧
    writableBits (start [] []).cfg .mtvt = some 0xFFFFFF80#32 ∧
    ∃ t, exec (CsrForm.rw.instr 10#5 0x307#12 11#5) (start [] []) = .next t :=
  ⟨by decide, by decide, by decide, by decide, by decide, _, rfl⟩

theorem witness_CsrStatusWrites :
    ∀ p ∈ [(0x300#12, CsrReg.mstatus), (0x342#12, CsrReg.mcause), (0x7D6#12, CsrReg.msavestatus)],
      csrOfAddr p.1 = some (.reg p.2) ∧ csrAllowed (start [] []) (.reg p.2) (CsrForm.rw.writes 11#5) = true ∧
      CsrForm.rw.writes 11#5 = true := by decide

theorem witness_CsrWriteFrame :
    csrOfAddr 0x340#12 = some (.reg .mscratch) ∧ showsStorage .mscratch .mepc = false ∧ countsRetired .mepc = false ∧
    csrAllowed (start [] []) (.reg .mscratch) (CsrForm.rw.writes 11#5) = true ∧ CsrForm.rw.writes 11#5 = true ∧
    csrOfAddr 0xB02#12 = some (.reg .minstret) ∧ showsStorage .minstret .minstreth = false ∧
    countsRetired .minstret = true ∧ countsRetired .mscratch = false ∧
    ∃ t, exec (CsrForm.rw.instr 10#5 0x340#12 11#5) (start [] []) = .next t :=
  ⟨by decide, by decide, by decide, by decide, by decide, by decide, by decide, by decide, by decide, _, rfl⟩

theorem witness_CsrAccessTraps :
    csrOfAddr 0x180#12 = none ∧
    (csrOfAddr 0xF14#12 = some (.reg .mhartid) ∧ CsrForm.rw.writes 5#5 = true ∧ csrAttr (.reg .mhartid) ≠ .mrw) ∧
    ((inUserMode (start [] [])).priv = .U ∧ csrOfAddr 0x300#12 = some (.reg .mstatus) ∧ csrAttr (.reg .mstatus) ≠ .uro) ∧
    (csrOfAddr 0xC01#12 = some (.reg .time) ∧ counterEnabled (inUserMode (start [] [])) (.reg .time) = false) ∧
    (csrOfAddr 0x306#12 = some (.reg .mcounteren) ∧
      (State.resetOf { Config.standard with hasUMode := false }).cfg.hasUMode = false) := by decide

theorem witness_ScratchSwap :
    (start [] []).priv = .M ∧ (start [] []).csr.mstatus.mpp ≠ .M ∧
    (withCsr .mstatus 0x1800#32 (start [] [])).csr.mstatus.mpp = .M ∧
    (¬ ((start [] []).csr.mcause.mpil = 0#8 ↔ 0x3F#8 = 0#8)) ∧
    ((start [] []).csr.mcause.mpil = 0#8 ↔ (start [] []).csr.mil = 0#8) := by decide

theorem witness_MnxtiWithoutRequest :
    (start [] []).priv = .M ∧ CsrForm.rsi.described .mnxti = true ∧
    (∀ r, eclicRequest (start [] []).cfg (start [] []).eclic = some r →
      r.shv = true ∨ r.level.toNat ≤ (start [] []).csr.mcause.mpil.toNat) ∧
    (eclicRequest Config.standard (pending19 true 0#32).eclic = some (request19 true) ∧ (request19 true).shv = true) :=
  ⟨rfl, rfl, (fun r (h : eclicRequest (start [] []).cfg (start [] []).eclic = some r) => by
    rw [show eclicRequest (start [] []).cfg (start [] []).eclic = none by decide] at h; cases h), by decide, rfl⟩

theorem witness_MnxtiClaims :
    (pending19 false 0x200#32).priv = .M ∧ CsrForm.rsi.described .mnxti = true ∧ CsrForm.rsi.writes 8#5 = true ∧
    CsrForm.rsi.writes 0#5 = false ∧
    eclicRequest (pending19 false 0x200#32).cfg (pending19 false 0x200#32).eclic = some (request19 false) ∧
    (request19 false).shv = false ∧
    (pending19 false 0x200#32).csr.mcause.mpil.toNat < (request19 false).level.toNat ∧
    0x24C#32 = (pending19 false 0x200#32).csr.mtvt + 4#32 * BitVec.ofNat 32 (request19 false).id ∧
    CanReadVector (pending19 false 0x200#32) 0x24C#32 :=
  ⟨rfl, rfl, rfl, rfl, by decide, rfl, by decide, by decide, .inl (.inl (by decide))⟩

theorem witness_JalmnxtiResults :
    (start [] []).priv = .M ∧ eclicRequest (start [] []).cfg (start [] []).eclic = none ∧
    (pending19 false 0x200#32).priv = .M ∧
    eclicRequest (pending19 false 0x200#32).cfg (pending19 false 0x200#32).eclic = some (request19 false) ∧
    (request19 false).shv = false ∧
    (pending19 false 0x200#32).csr.mcause.mpil.toNat < (request19 false).level.toNat ∧
    CanReadVector (pending19 false 0x200#32) 0x24C#32 :=
  ⟨rfl, by decide, rfl, by decide, rfl, by decide, .inl (.inl (by decide))⟩

theorem witness_ClaimReadFails :
    (pending19 false 0x40000000#32).priv = .M ∧ CsrForm.rsi.described .mnxti = true ∧
    eclicRequest (pending19 false 0x40000000#32).cfg (pending19 false 0x40000000#32).eclic = some (request19 false) ∧
    (request19 false).shv = false ∧
    (pending19 false 0x40000000#32).csr.mcause.mpil.toNat < (request19 false).level.toNat ∧
    0x4000004C#32 = (pending19 false 0x40000000#32).csr.mtvt + 4#32 * BitVec.ofNat 32 (request19 false).id ∧
    ¬ CanReadVector (pending19 false 0x40000000#32) 0x4000004C#32 ∧
    (pending19 false 0x40000000#32).cfg.mnxtiReturnsEntryAddress = false :=
  ⟨rfl, rfl, by decide, rfl, by decide, by decide, not_answered_of (by decide), rfl⟩

/-- The address of a push at the ends of the immediate's range, and a misaligned one. -/
theorem witness_PushResults :
    (start [] []).priv = .M ∧ (start [] []).mem.wf = true ∧
    0x20000FE0#32 = readReg (start [(2#5, 0x20000FE0#32)] []) 2#5 + 4#32 * (0#5).zeroExtend 32 ∧
    0x2000105C#32 = readReg (start [(2#5, 0x20000FE0#32)] []) 2#5 + 4#32 * (31#5).zeroExtend 32 ∧
    placeOf (start [] []).cfg 0x20000FE0#32 = .ram ∧ (0x20000FE0#32).toNat % 4 = 0 ∧
    0x20000FE2#32 = readReg (start [(2#5, 0x20000FE2#32)] []) 2#5 + 4#32 * (0#5).zeroExtend 32 ∧
    (0x20000FE2#32).toNat % 4 ≠ 0 ∧
    0x40000000#32 = readReg (start [(2#5, 0x40000000#32)] []) 2#5 + 4#32 * (0#5).zeroExtend 32 ∧
    placeOf (start [] []).cfg 0x40000000#32 = .nothing ∧ (0x40000000#32).toNat % 4 = 0 ∧
    0xD1000FFC#32 = readReg (start [(2#5, 0xD1000F80#32)] []) 2#5 + 4#32 * (31#5).zeroExtend 32 ∧
    placeOf (start [] []).cfg 0xD1000FFC#32 = .timer ∧ (0xD1000FFC#32).toNat % 4 = 0 ∧
    0xD2001000#32 = readReg (start [(2#5, 0xD2001000#32)] []) 2#5 + 4#32 * (0#5).zeroExtend 32 ∧
    placeOf (start [] []).cfg 0xD2001000#32 = .eclic ∧ (0xD2001000#32).toNat % 4 = 0 ∧
    (start [] []).eclic.sources.length = (start [] []).cfg.numInterrupt := by decide

/-- R308, R135: `csrrwi x0, pushmepc, 2` with the stack in the TIMER writes `mtimecmp`. -/
theorem test_push_timer :
    stepped 32 0x7ef15073 (withCsr .mepc 0x12345678#32 (start [(2#5, 0xD1000000#32)] []))
      (fun t => [t.pc, t.timer.mtimecmp.extractLsb' 0 32]) = some [0x1004#32, 0x12345678#32] := by decide

theorem witness_UndescribedFormsStop :
    (start [] []).priv = .M ∧ csrOfAddr 0x345#12 = some (.op .mnxti) ∧ CsrForm.rw.described .mnxti = false := by decide

theorem witness_LoadReserved :
    inMemory (start [(11#5, 0x20000000#32)] []) (readReg (start [(11#5, 0x20000000#32)] []) 11#5) ∧
    (readReg (start [(11#5, 0x20000000#32)] []) 11#5).toNat % 4 = 0 := ⟨.inl (by decide), by decide⟩

theorem witness_StoreConditional :
    0x20000000#32 = readReg (start [(11#5, 0x20000000#32)] []) 11#5 ∧ (0x20000000#32).toNat % 4 = 0 ∧
    (reserving 0x20000000#32 (start [(11#5, 0x20000000#32)] [])).mem.wf = true ∧
    placeOf (start [] []).cfg 0x20000000#32 = .ram ∧
    (reserving 0x20000000#32 (start [] [])).reservation = some 0x20000000#32 ∧
    (reserving 0x20000000#32 (start [] [])).now.scFail = false ∧
    placeOf (withMap (start [] [])).cfg 0x30000000#32 = .rom ∧
    (reserving 0x30000000#32 (withMap (start [] []))).reservation = some 0x30000000#32 ∧
    0x40000000#32 = readReg (start [(11#5, 0x40000000#32)] []) 11#5 ∧ (0x40000000#32).toNat % 4 = 0 ∧
    placeOf (start [] []).cfg 0x40000000#32 = .nothing ∧
    (reserving 0x40000000#32 (start [] [])).reservation = some 0x40000000#32 ∧
    inMemory (start [] []) 0x20000000#32 ∧ (start [] []).reservation ≠ some 0x20000000#32 ∧
    ({ reserving 0x20000000#32 (start [] []) with now := { EnvInput.quiet with scFail := true } } : State).now.scFail =
      true :=
  ⟨by decide, by decide, by decide, by decide, by decide, by decide, by decide, by decide, by decide, by decide,
    by decide, by decide, .inl (by decide), by decide, rfl⟩

theorem witness_AtomicUpdates :
    Amo (.amomaxuW 10#5 12#5 11#5 1#1 0#1) 10#5 12#5 11#5 (fun t v => if t.toNat ≤ v.toNat then v else t) ∧
    0x20000000#32 = readReg (start [(11#5, 0x20000000#32)] []) 11#5 ∧
    (start [(11#5, 0x20000000#32)] []).mem.wf = true ∧ placeOf (start [] []).cfg 0x20000000#32 = .ram ∧
    (0x20000000#32).toNat % 4 = 0 := ⟨.maxu _ _ _ _ _, by decide, by decide, by decide, by decide⟩

theorem witness_AtomicsOutsideRam :
    Amo (.amoswapW 10#5 12#5 11#5 0#1 0#1) 10#5 12#5 11#5 (fun _ v => v) ∧
    (∀ a, a = readReg (withMap (start [(11#5, a)] [])) 11#5) ∧
    (∀ a ∈ [0x30000000#32, 0x40000000#32, 0xD1000000#32, 0xD2000000#32, 0x31000000#32], a.toNat % 4 = 0) ∧
    placeOf (withMap (start [] [])).cfg 0x30000000#32 = .rom ∧
    placeOf (withMap (start [] [])).cfg 0x40000000#32 = .nothing ∧
    placeOf (withMap (start [] [])).cfg 0xD1000000#32 = .timer ∧
    placeOf (withMap (start [] [])).cfg 0xD2000000#32 = .eclic ∧
    placeOf (withMap (start [] [])).cfg 0x31000000#32 = .device false :=
  ⟨.swap _ _ _ _ _, fun _ => rfl, by simp, by decide, by decide, by decide, by decide, by decide⟩

theorem witness_CompressedResults :
    10#5 = 1#2 ++ 2#3 ∧ 5#32 = readReg (start [(10#5, 5#32)] []) 10#5 ∧
    0xDEADBEEF#32 = readReg (start [] []) (1#2 ++ 7#3) := by decide

theorem witness_CompressedControlResults :
    0x17FE#32 = (start [] []).pc + (0x3FF#11 ++ 0#1).signExtend 32 ∧
    0x2000#32 = (readReg (start [(1#5, 0x2001#32)] []) 1#5).extractLsb' 1 31 ++ 0#1 := by decide

end Sys2Proof.Tests
end

section
/-! PROOFS. The invariant at reset and along every step (spec/00_scope.md R7, spec/10_state.md R23 to R82). It is
taken apart into one condition per field of the state; `Keeps` says that a part of the step keeps it, and each shared
operation, each instruction and the step itself are shown to do so by composing the parts they are made of. -/

namespace Sys2Proof.Machine

/-! ## Words with bit 0 clear -/

/-- The sum of two even words is even: nothing is carried into bit 0. -/
theorem even_add {a b : Word} (ha : a.getLsbD 0 = false) (hb : b.getLsbD 0 = false) : (a + b).getLsbD 0 = false := by
  rw [BitVec.getLsbD_add (by decide), ha, hb]; simp

/-- A branch or jump offset, whose low bit is not encoded, is even (R164, R170). -/
theorem even_offset {n : Nat} (off : BitVec n) : ((off ++ 0#1).signExtend 32 : Word).getLsbD 0 = false := by
  rw [BitVec.getLsbD_signExtend, if_pos (by omega), BitVec.getLsbD_append]
  rfl

/-- A word whose low two bits are 0 is even. -/
theorem even_of_low2 {v : Word} (h : v.extractLsb' 0 2 = 0#2) : v.getLsbD 0 = false := by
  have := congrArg (·.getLsbD 0) h
  simpa using this

/-- An address that is a multiple of 4 has its low two bits 0. -/
theorem low2_of_aligned {a : Word} (h : misaligned a 4 = false) : a.extractLsb' 0 2 = 0#2 := by
  simp only [misaligned, decide_eq_false_iff_not, not_not] at h
  apply BitVec.eq_of_toNat_eq
  simpa using h

/-- The common entry address is even, from whichever CSR it is formed (R477). -/
theorem commonEntryAddress_even (k : Csrs) : (commonEntryAddress k).getLsbD 0 = false := by
  unfold commonEntryAddress
  split
  · rw [BitVec.getLsbD_append]; rfl
  · exact entryAddress_even _

/-! ## Constant bits of the CSRs -/

/-- Clearing the low bits once more changes nothing (R40). -/
theorem clearLow_idem (k : Nat) (v : Word) : clearLow k (clearLow k v) = clearLow k v := by
  unfold clearLow
  apply BitVec.eq_of_getLsbD_eq
  intro i hi
  simp only [BitVec.getLsbD_shiftLeft, BitVec.getLsbD_ushiftRight]
  by_cases hk : i < k
  · simp [hk]
  · simp [hk, hi, show k + (i - k) = i by omega]

/-- Masking a saved cause once more changes nothing (R61). -/
theorem causeMask_idem (v : Word) : causeMask (causeMask v) = causeMask v := by
  unfold causeMask; rw [BitVec.and_assoc, BitVec.and_self]

/-- A mask that keeps both parts of a concatenation keeps the concatenation. -/
theorem append_and_mask {m n : Nat} {x p : BitVec m} {y q : BitVec n} (hx : x &&& p = x) (hy : y &&& q = y) :
    (x ++ y) &&& (p ++ q) = x ++ y := by
  rw [BitVec.and_append, hx, hy]

/-- What `mcause` reads has the shape of a saved cause: the bits R61 holds at 0 are 0 there too (R43). -/
theorem causeMask_mcauseValue (k : Csrs) : causeMask (mcauseValue k) = mcauseValue k := by
  have mask : 0xF8FF0FFF#32 = BitVec.allOnes 1 ++ BitVec.allOnes 1 ++ BitVec.allOnes 2 ++ BitVec.allOnes 1 ++ 0#3
      ++ BitVec.allOnes 8 ++ 0#4 ++ BitVec.allOnes 12 := by decide
  unfold causeMask mcauseValue
  rw [mask]
  have field {n : Nat} (v : BitVec n) : v &&& BitVec.allOnes n = v := BitVec.and_allOnes
  have gap (n : Nat) : 0#n &&& 0#n = 0#n := BitVec.and_self
  exact append_and_mask (append_and_mask (append_and_mask (append_and_mask (append_and_mask (append_and_mask
    (append_and_mask (field _) (field _)) (field _)) (field _)) (gap 3)) (field _)) (gap 4)) (field _)

/-! ## The invariant, field by field -/

/-- Without User Mode the only mode there is, now or saved, is Machine Mode (R26, R35, R59). -/
def LegalPriv (c : Config) (p : Priv) : Prop := c.hasUMode = false → p = .M

/-- The part of the invariant that speaks of the CSRs. -/
structure CsrsOk (c : Config) (k : Csrs) : Prop where
  mepc : k.mepc.getLsbD 0 = false
  msaveepc1 : k.msaveepc1.getLsbD 0 = false
  msaveepc2 : k.msaveepc2.getLsbD 0 = false
  mtvt : clearLow (mtvtAlign c) k.mtvt = k.mtvt
  msavecause1 : causeMask k.msavecause1 = k.msavecause1
  msavecause2 : causeMask k.msavecause2 = k.msavecause2
  mpp : LegalPriv c k.mstatus.mpp
  mpp1 : LegalPriv c k.save1.mpp
  mpp2 : LegalPriv c k.save2.mpp

/-- A reservation is of a word (R146). -/
def WordAligned (o : Option Word) : Prop := ∀ r, o = some r → r.extractLsb' 0 2 = 0#2

/-- The invariant asks something of each of eight fields, and of nothing else. -/
theorem inv_of_fields {s : State} (cfg : s.cfg.wf = true) (pc : s.pc.getLsbD 0 = false) (priv : LegalPriv s.cfg s.priv)
    (csr : CsrsOk s.cfg s.csr) (sources : SourcesOk s.cfg s.eclic) (reservation : WordAligned s.reservation)
    (mem : s.mem.wf = true) (stale : s.stale.wf = true) : Inv s where
  cfg := cfg
  pc := pc
  mepc := csr.mepc
  msaveepc1 := csr.msaveepc1
  msaveepc2 := csr.msaveepc2
  mtvt := csr.mtvt
  msavecause1 := csr.msavecause1
  msavecause2 := csr.msavecause2
  machineOnly hu := ⟨priv hu, csr.mpp hu, csr.mpp1 hu, csr.mpp2 hu⟩
  sources := sources
  reservation := reservation
  mem := mem
  stale := stale

/-- The invariant makes the current mode legal. -/
theorem Inv.legalPriv {s : State} (h : Inv s) : LegalPriv s.cfg s.priv := fun hu => (h.machineOnly hu).priv

/-- The invariant makes the reservation that of a word. -/
theorem Inv.wordAligned {s : State} (h : Inv s) : WordAligned s.reservation := h.reservation

/-- The invariant gives its part about the CSRs. -/
theorem Inv.csrsOk {s : State} (h : Inv s) : CsrsOk s.cfg s.csr where
  mepc := h.mepc
  msaveepc1 := h.msaveepc1
  msaveepc2 := h.msaveepc2
  mtvt := h.mtvt
  msavecause1 := h.msavecause1
  msavecause2 := h.msavecause2
  mpp hu := (h.machineOnly hu).mpp
  mpp1 hu := (h.machineOnly hu).mpp1
  mpp2 hu := (h.machineOnly hu).mpp2

/-! ## Reset -/

/-- R7: the reset vector is word aligned, so it is even. -/
theorem resetVector_even {c : Config} (h : c.wf = true) : c.resetVector.getLsbD 0 = false := by
  simp only [Config.wf, Bool.and_eq_true, beq_iff_eq] at h
  obtain ⟨⟨⟨⟨⟨⟨⟨⟨hv, -⟩, -⟩, -⟩, -⟩, -⟩, -⟩, -⟩, -⟩ := h
  exact even_of_low2 hv

/-- Every source, existing or not, is at its reset value. -/
theorem sourceAt_resetOf (c : Config) (i : Nat) : sourceAt (State.resetOf c).eclic i = Source.reset := by
  show (List.replicate c.numInterrupt Source.reset).getD i Source.reset = Source.reset
  rw [List.getD_eq_getElem?_getD, List.getElem?_replicate]
  split <;> rfl

theorem sourcesOk_resetOf (c : Config) : SourcesOk c (State.resetOf c).eclic where
  count := List.length_replicate
  absent i _ := sourceAt_resetOf c i
  ctl i := by rw [sourceAt_resetOf]; exact BitVec.zero_and

/-- `MPP` is Machine at reset without User Mode (R35). -/
theorem legalPriv_mppReset (c : Config) : LegalPriv c (mppReset c) := by
  intro hu; simp [mppReset, hu]

theorem csrsOk_resetOf (c : Config) : CsrsOk c (Csrs.resetOf c) where
  mepc := by simp [Csrs.resetOf]
  msaveepc1 := by simp [Csrs.resetOf]
  msaveepc2 := by simp [Csrs.resetOf]
  mtvt := by simp [Csrs.resetOf, clearLow]
  msavecause1 := by simp [Csrs.resetOf, causeMask]
  msavecause2 := by simp [Csrs.resetOf, causeMask]
  mpp := legalPriv_mppReset c
  mpp1 := legalPriv_mppReset c
  mpp2 := legalPriv_mppReset c

/-- Reset meets the invariant under every configuration that meets R7. -/
theorem inv_resetOf {c : Config} (h : c.wf = true) : Inv (State.resetOf c) :=
  inv_of_fields (cfg := h) (pc := resetVector_even h) (priv := fun _ => rfl) (csr := csrsOk_resetOf c)
    (sources := sourcesOk_resetOf c) (reservation := fun _ hr => nomatch hr) (mem := rfl) (stale := rfl)

/-- Settles O2: each field of the reset state meets its part of the invariant. -/
theorem resetMeetsInvariant : Obligations.ResetMeetsInvariant :=
  ⟨fun _ h => inv_resetOf h, inv_resetOf (by decide)⟩

/-! ## Keeping the invariant -/

/-- From `s` to `t` the parameters stay, and the invariant holds of `t` if it holds of `s`. -/
structure Keeps (s t : State) : Prop where
  inv : Inv s → Inv t
  cfg : t.cfg = s.cfg

theorem Keeps.refl (s : State) : Keeps s s := ⟨id, rfl⟩

theorem Keeps.trans {s t u : State} (h : Keeps s t) (h' : Keeps t u) : Keeps s u :=
  ⟨h'.inv ∘ h.inv, h'.cfg.trans h.cfg⟩

/-- An operation keeps the invariant if every field it changes still meets its part; a field not named here is one the
operation leaves as it was. -/
theorem Keeps.of_fields {s t : State} (cfg : t.cfg = s.cfg := by simp)
    (pc : Inv s → t.pc.getLsbD 0 = false := by intro h; simpa using h.pc)
    (priv : Inv s → LegalPriv s.cfg t.priv := by intro h; simpa using h.legalPriv)
    (csr : Inv s → CsrsOk s.cfg t.csr := by intro h; simpa using h.csrsOk)
    (sources : Inv s → SourcesOk s.cfg t.eclic := by intro h; simpa using h.sources)
    (reservation : Inv s → WordAligned t.reservation := by intro h; simpa using h.wordAligned)
    (mem : Inv s → t.mem.wf = true := by intro h; simpa using h.mem)
    (stale : Inv s → t.stale.wf = true := by intro h; simpa using h.stale) : Keeps s t where
  cfg := cfg
  inv h := inv_of_fields (cfg := by rw [cfg]; exact h.cfg) (pc := pc h) (priv := by rw [cfg]; exact priv h)
    (csr := by rw [cfg]; exact csr h) (sources := by rw [cfg]; exact sources h) (reservation := reservation h)
    (mem := mem h) (stale := stale h)

/-- If the outcome is a next state, it keeps the invariant and the parameters of `s`. -/
def NextKeeps (s : State) (r : Result) : Prop := ∀ t, r = .next t → Keeps s t

theorem nextKeeps_next {s t : State} (h : Keeps s t) : NextKeeps s (.next t) := by
  rintro _ ⟨⟩; exact h

theorem nextKeeps_refused (s : State) (r : Refusal) : NextKeeps s (.refused r) := by
  intro _ h; cases h

theorem nextKeeps_fault (s : State) (r : Fault) : NextKeeps s (.fault r) := by
  intro _ h; cases h

/-! ## Registers and completion -/

theorem setReg_keeps (r : Reg) (v : Word) (s : State) : Keeps s (setReg r v s) := .of_fields

theorem drawn_keeps (s : State) : Keeps s (drawn s) := .of_fields

theorem raiseBusError_keeps (k : Bool) (a : Word) (s : State) : Keeps s (raiseBusError k a s) := .of_fields

theorem CsrsOk.countRetired {c : Config} {s : State} (h : CsrsOk c s.csr) : CsrsOk c (countRetired s).csr := by
  unfold Machine.countRetired
  split
  · exact h
  · exact { h with }

theorem countRetired_keeps (s : State) : Keeps s (countRetired s) :=
  .of_fields (csr := fun h => h.csrsOk.countRetired)

theorem setCsr_keeps {s : State} {k : Csrs} (h : Inv s → CsrsOk s.cfg k) : Keeps s { s with csr := k } :=
  .of_fields (csr := h)

/-- An even pc, then: even whenever the invariant holds at the start. -/
theorem Keeps.setPc {s t : State} {pc : Word} (h : Keeps s t) (hpc : Inv s → pc.getLsbD 0 = false) :
    Keeps s { t with pc := pc } where
  cfg := h.cfg
  inv hi := (Keeps.of_fields (s := t) (pc := fun _ => hpc hi)).inv (h.inv hi)

/-- Completion at an even address. -/
theorem retireTo_keeps {s s' : State} {next : Word} (h : Keeps s s') (hn : Inv s → next.getLsbD 0 = false) :
    NextKeeps s (retireTo next s') :=
  nextKeeps_next ((h.trans (countRetired_keeps s')).setPc hn)

/-- Completion of an instruction of an even number of bytes. -/
theorem retire_keeps {s s' : State} {len : Word} (h : Keeps s s') (hl : len.getLsbD 0 = false) :
    NextKeeps s (retire len s') :=
  retireTo_keeps h fun hi => even_add (h.inv hi).pc hl

theorem retireWrite_keeps {s s' : State} {rd : Reg} {v len : Word} (h : Keeps s s') (hl : len.getLsbD 0 = false) :
    NextKeeps s (retireWrite rd v len s') :=
  retire_keeps (h.trans (setReg_keeps rd v s')) hl

theorem branchOp_keeps {off len : Word} (ho : off.getLsbD 0 = false) (hl : len.getLsbD 0 = false) (b : Bool)
    (s : State) : NextKeeps s (branchOp b off len s) :=
  retireTo_keeps (.refl s) fun hi => by
    cases b
    · exact even_add hi.pc hl
    · exact even_add hi.pc ho

theorem jumpOp_keeps {s : State} {target : Word} (ht : Inv s → target.getLsbD 0 = false) (rd : Reg) (len : Word) :
    NextKeeps s (jumpOp rd target len s) :=
  retireTo_keeps (setReg_keeps rd _ s) ht

/-! ## The sources of the ECLIC -/

/-- The low bits of a byte are 0: bit by bit. -/
theorem and_onesLow_eq_zero_iff (v : Byte) (n : Nat) : v &&& onesLow n = 0#8 ↔ ∀ m, m < n → v.getLsbD m = false := by
  have bit (m : Nat) : (v &&& onesLow n).getLsbD m = (v.getLsbD m && decide (m < n)) := by
    rw [BitVec.getLsbD_and, getLsbD_onesLow]
    by_cases h8 : m < 8
    · simp [h8]
    · simp [BitVec.getLsbD_of_ge v m (by omega)]
  constructor
  · intro h m hm
    have := bit m
    rw [h] at this
    simpa [hm] using this.symm
  · intro h
    apply BitVec.eq_of_getLsbD_eq
    intro m _
    rw [bit]
    by_cases hm : m < n
    · simp [h m hm]
    · simp [hm]

/-- A change that leaves alone the number of sources, the sources that do not exist and every `clicintctl` keeps what
the invariant says of them. -/
theorem SourcesOk.congr {c : Config} {e e' : Eclic} (h : SourcesOk c e) (count : e'.sources.length = e.sources.length)
    (absent : ∀ i, sourceExists c i = false → sourceAt e' i = sourceAt e i)
    (ctl : ∀ i, (sourceAt e' i).ctl = (sourceAt e i).ctl) : SourcesOk c e' where
  count := count.trans h.count
  absent i hi := (absent i hi).trans (h.absent i hi)
  ctl i := by rw [ctl i]; exact h.ctl i

/-- A source that is not at its reset value exists. -/
theorem SourcesOk.exists_of_ne {c : Config} {e : Eclic} (h : SourcesOk c e) {i : Nat}
    (hi : sourceAt e i ≠ Source.reset) : sourceExists c i = true := by
  by_contra hx
  exact hi (h.absent i (Bool.eq_false_iff.2 hx))

/-- A store to the ECLIC reaches the implemented bits of existing sources only (R82, R136). -/
theorem SourcesOk.eclicWrite {c : Config} {e : Eclic} (h : SourcesOk c e) (k n : Nat) (v : Word) :
    SourcesOk c (eclicWrite c k n v e) := by
  have hw := eclicWrite_stored h.count k n v
  refine ⟨hw.count.trans h.count, fun i hi => (hw.absent i hi).trans (h.absent i hi), fun i => ?_⟩
  cases hx : sourceExists c i with
  | false => rw [hw.absent i hx]; exact h.ctl i
  | true =>
    rw [and_onesLow_eq_zero_iff]
    intro m hm
    rw [hw.ctl i m hx]
    cases storedByte k n v (0x1003 + 4 * i) with
    | none => exact (and_onesLow_eq_zero_iff _ _).1 (h.ctl i) m hm
    | some b => exact if_pos hm

/-- Clearing the IP of a source keeps the sources: one that does not exist is level-triggered, and is left alone. -/
theorem SourcesOk.clearIp {c : Config} {e : Eclic} (h : SourcesOk c e) (i : Nat) :
    SourcesOk c (if (sourceAt e i).trig.getLsbD 0 then setSource i { sourceAt e i with ip := false } e else e) := by
  split
  · next ht =>
    have hx : sourceExists c i = true := h.exists_of_ne fun he => by rw [he] at ht; cases ht
    have at_set (j : Nat) := sourceAt_setSource e i j { sourceAt e i with ip := false }
      (by rw [h.count]; exact lt_of_sourceExists hx)
    refine h.congr List.length_set (fun j hj => ?_) (fun j => ?_)
    · rw [at_set, if_neg (by rintro rfl; rw [hx] at hj; cases hj)]
    · rw [at_set]
      by_cases hij : i = j
      · rw [if_pos hij, hij]
      · rw [if_neg hij]
  · exact h

/-- Sampling a line changes the pending state of a source, not its `clicintctl`. -/
theorem sampleSource_ctl (l : Bool) (q : Source) : (sampleSource l q).ctl = q.ctl := by
  unfold sampleSource
  (repeat' split) <;> rfl

theorem sampleFrom_length (c : Config) (line : Nat → Bool) (i : Nat) (qs : List Source) :
    (sampleFrom c line i qs).length = qs.length := by
  induction qs generalizing i with
  | nil => rfl
  | cons q qs ih => simp [sampleFrom, ih]

/-- Sampling, source by source: those in the list that exist are sampled, the others are as they were (R482). -/
theorem sampleFrom_getD (c : Config) (line : Nat → Bool) (i : Nat) (qs : List Source) (k : Nat) :
    (sampleFrom c line i qs).getD k Source.reset =
      if k < qs.length ∧ sourceExists c (i + k) = true then sampleSource (line (i + k)) (qs.getD k Source.reset)
      else qs.getD k Source.reset := by
  induction qs generalizing i k with
  | nil => simp [sampleFrom]
  | cons q qs ih =>
    cases k with
    | zero => simp [sampleFrom]
    | succ k => simpa [sampleFrom, Nat.add_assoc, Nat.add_comm 1 k] using ih (i + 1) k

/-- Source `i` after the lines are sampled. -/
theorem sourceAt_sampleLines (s : State) (i : Nat) : sourceAt (sampleLines s).eclic i =
    if i < s.eclic.sources.length ∧ sourceExists s.cfg i = true then sampleSource (irqLine s i) (sourceAt s.eclic i)
    else sourceAt s.eclic i := by
  have := sampleFrom_getD s.cfg (irqLine s) 0 s.eclic.sources i
  rwa [Nat.zero_add] at this

theorem SourcesOk.sampleLines {s : State} (h : SourcesOk s.cfg s.eclic) : SourcesOk s.cfg (sampleLines s).eclic := by
  refine h.congr (sampleFrom_length _ _ _ _) (fun i hi => ?_) (fun i => ?_)
  · rw [sourceAt_sampleLines, if_neg (by simp [hi])]
  · rw [sourceAt_sampleLines]
    split
    · exact sampleSource_ctl _ _
    · rfl

/-! ## Memory access -/

theorem WordAligned.none : WordAligned none := by
  intro _ h; cases h

theorem breakReservation_keeps (a : Word) (n : Nat) (s : State) : Keeps s (breakReservation a n s) := by
  refine .of_fields (reservation := fun h => ?_)
  unfold breakReservation
  split
  · exact .none
  · exact h.wordAligned

theorem storeByte_keeps (a : Word) (b : Byte) (s : State) : Keeps s (storeByte a b s) :=
  .of_fields (mem := fun h => storeByte_memWf h.mem a b) (stale := fun h => storeByte_staleWf h.stale a b)

theorem storeBytes_keeps (a : Word) (n : Nat) (v : Word) (s : State) : Keeps s (storeBytes a n v s) :=
  .of_fields (mem := fun h => storeBytes_memWf h.mem a n v) (stale := fun h => storeBytes_staleWf h.stale a n v)

theorem memRead_keeps {a : Word} {n : Nat} {s s' : State} {v : Word} (h : memRead a n s = .ok (v, s')) :
    Keeps s s' := by
  obtain ⟨w, hr⟩ | ⟨w, hr⟩ | ⟨w, hr⟩ | ⟨-, -, hr⟩ := memRead_cases a n s <;> rw [hr] at h <;> cases h
  · exact .refl s
  · exact drawn_keeps s
  · exact (drawn_keeps s).trans (raiseBusError_keeps _ _ _)

theorem writePlace_keeps {a : Word} {n : Nat} {v : Word} {s s' : State} (h : writePlace a n v s = .ok s') :
    Keeps s s' := by
  obtain ⟨-, -, hw⟩ | ⟨-, -, hw⟩ | ⟨-, hw⟩ | ⟨-, hw⟩ | hw | hw := writePlace_cases a n v s <;> rw [hw] at h <;> cases h
  · exact .of_fields
  · exact .of_fields (sources := fun hi => hi.sources.eclicWrite _ n v)
  · exact storeBytes_keeps a n v s
  · exact .refl s
  · exact raiseBusError_keeps true a s

theorem memWrite_keeps {a : Word} {n : Nat} {v : Word} {s s' : State} (h : memWrite a n v s = .ok s') : Keeps s s' := by
  unfold memWrite at h
  cases hw : writePlace a n v s with
  | error r => rw [hw] at h; cases h
  | ok u =>
    rw [hw] at h; cases h
    exact (writePlace_keeps hw).trans (breakReservation_keeps a n u)

/-! ## Traps and the return from them -/

theorem stackPush_keeps (s : State) : Keeps s (stackPush s) :=
  .of_fields (csr := fun h =>
    { h.csrsOk with
      msaveepc1 := h.mepc
      msaveepc2 := h.msaveepc1
      msavecause1 := causeMask_mcauseValue s.csr
      msavecause2 := h.msavecause1
      mpp1 := h.csrsOk.mpp
      mpp2 := h.csrsOk.mpp1 })

theorem enterTrap_keeps (typ : BitVec 2) (epc : Word) (s : State) : Keeps s (enterTrap typ epc s) :=
  .of_fields (csr := fun h => { h.csrsOk with mepc := clearBit0_even epc, mpp := h.legalPriv })
    (priv := fun _ _ => rfl) (reservation := fun _ => .none)

theorem setTrapCause_keeps (code : BitVec 12) (s : State) : Keeps s (setTrapCause code s) :=
  setCsr_keeps fun h => { h.csrsOk with }

theorem setMinhv_keeps (b : Bool) (s : State) : Keeps s (setMinhv b s) :=
  setCsr_keeps fun h => { h.csrsOk with }

/-- What an exception entry and an NMI entry share. -/
theorem trapEntry_keeps (code : BitVec 12) (typ : BitVec 2) (epc : Word) (s : State) :
    Keeps s (setTrapCause code (enterTrap typ epc (stackPush s))) :=
  ((stackPush_keeps s).trans (enterTrap_keeps typ epc _)).trans (setTrapCause_keeps code _)

theorem exceptionEntry_keeps (code : BitVec 12) (tval epc : Word) (s : State) :
    Keeps s (exceptionEntry code tval epc s) := by
  unfold exceptionEntry
  exact (trapEntry_keeps code 2#2 epc s).trans
    (.of_fields (csr := fun h => { h.csrsOk with }) (pc := fun _ => entryAddress_even s.csr.mtvec))

theorem breakpoint_keeps (s : State) : Keeps s (breakpoint s) :=
  (drawn_keeps s).trans (exceptionEntry_keeps _ _ _ _)

theorem environmentCall_keeps (s : State) : Keeps s (environmentCall s) :=
  (drawn_keeps s).trans (exceptionEntry_keeps _ _ _ _)

theorem busErrorException_keeps (s : State) : Keeps s (busErrorException s) := by
  unfold busErrorException
  exact (exceptionEntry_keeps _ _ _ s).trans .of_fields

theorem nmiEntry_keeps (s : State) : Keeps s (nmiEntry s) := by
  unfold nmiEntry
  refine (trapEntry_keeps _ 3#2 s.pc s).trans (.of_fields (pc := fun h => ?_))
  show (if s.csr.nmiCauseFff then entryAddress s.csr.mtvec else s.cfg.resetVector).getLsbD 0 = false
  split
  · exact entryAddress_even _
  · exact resetVector_even h.cfg

theorem interruptUpdates_keeps (r : Candidate) (s : State) : Keeps s (interruptUpdates r s) := by
  unfold interruptUpdates
  exact (enterTrap_keeps 1#2 s.pc s).trans (.of_fields (csr := fun h => { h.csrsOk with }))

theorem claimSource_keeps (i : Nat) (s : State) : Keeps s (claimSource i s) :=
  .of_fields (sources := fun h => h.sources.clearIp i)

theorem interruptEntry_keeps (r : Candidate) (s : State) : Keeps s (interruptEntry r s) := by
  have hu := interruptUpdates_keeps r s
  cases hv : r.shv with
  | false =>
    rw [interruptEntry_common hv]
    exact hu.setPc fun _ => commonEntryAddress_even s.csr
  | true =>
    cases hr : vectorRead s r.id with
    | none =>
      rw [interruptEntry_failed hv hr]
      exact (hu.trans (setMinhv_keeps true _)).trans (exceptionEntry_keeps _ _ _ _)
    | some v =>
      rw [interruptEntry_vectored hv hr]
      exact ((hu.trans (setMinhv_keeps false _)).setPc fun _ => clearBit0_even v).trans
        (claimSource_keeps r.id _)

theorem mretPop_keeps (s : State) : Keeps s (mretPop s) :=
  .of_fields (csr := fun h =>
    { h.csrsOk with
      mepc := h.msaveepc1
      msaveepc1 := h.msaveepc2
      msavecause1 := h.msavecause2
      mpp := h.csrsOk.mpp1
      mpp1 := h.csrsOk.mpp2 })

/-- The mode `mret` goes to, and the one it leaves in `MPP`, is Machine without User Mode (R300, R302). -/
theorem legalPriv_ite (c : Config) (p : Priv) : LegalPriv c (if c.hasUMode then p else .M) := by
  intro hu; simp [hu]

theorem mretInterrupt_keeps (s : State) : Keeps s (mretInterrupt s) :=
  setCsr_keeps fun h => { h.csrsOk with mpp := legalPriv_ite s.cfg .U }

theorem returnFromTrap_keeps (s : State) : Keeps s (returnFromTrap s) := by
  have popped : Keeps s (if s.csr.mcause.interrupt then mretInterrupt s else mretPop s) := by
    split
    · exact mretInterrupt_keeps s
    · exact mretPop_keeps s
  refine .of_fields (pc := fun _ => clearBit0_even s.csr.mepc) (priv := fun _ => legalPriv_ite s.cfg _)
    (reservation := fun _ => .none) (csr := fun h => ?_)
  have hk := (popped.inv h).csrsOk
  rw [popped.cfg] at hk
  exact { hk with }

/-! ## Loads, stores and atomic instructions -/

theorem loadOp_keeps {len : Word} (hl : len.getLsbD 0 = false) (rd : Reg) (a : Word) (n : Nat) (ext : Word → Word)
    (s : State) : NextKeeps s (loadOp rd a n ext len s) := by
  unfold loadOp
  split
  · exact nextKeeps_next (exceptionEntry_keeps _ _ _ s)
  · split
    · next h => exact retireWrite_keeps (memRead_keeps h) hl
    · exact nextKeeps_refused s _

theorem storeOp_keeps {len : Word} (hl : len.getLsbD 0 = false) (a : Word) (n : Nat) (v : Word) (s : State) :
    NextKeeps s (storeOp a n v len s) := by
  unfold storeOp
  split
  · exact nextKeeps_next (exceptionEntry_keeps _ _ _ s)
  · split
    · next h => exact retire_keeps (memWrite_keeps h) hl
    · exact nextKeeps_refused s _

theorem amoOp_keeps (f : Word → Word → Word) (rd rs2 rs1 : Reg) (s : State) : NextKeeps s (amoOp f rd rs2 rs1 s) := by
  unfold amoOp
  split
  · exact nextKeeps_next (exceptionEntry_keeps _ _ _ s)
  · split
    · exact nextKeeps_refused s _
    · split
      · exact nextKeeps_refused s _
      · next hr =>
        split
        · exact nextKeeps_refused s _
        · next hw => exact retireWrite_keeps ((memRead_keeps hr).trans (memWrite_keeps hw)) rfl

theorem clearReservation_keeps (s : State) : Keeps s { s with reservation := none } :=
  .of_fields (reservation := fun _ => .none)

/-- `lr.w` reserves the address it found aligned (R146, R341). -/
theorem execLrW_keeps (rd rs1 : Reg) (aq rl : BitVec 1) (s : State) : NextKeeps s (execLrW rd rs1 aq rl s) := by
  unfold execLrW
  split
  · exact nextKeeps_next (exceptionEntry_keeps _ _ _ s)
  · next ha =>
    split
    · exact nextKeeps_refused s _
    · split
      · exact nextKeeps_refused s _
      · next hr =>
        have aligned : WordAligned (some (readReg s rs1)) := by
          rintro _ ⟨⟩; exact low2_of_aligned (Bool.eq_false_iff.2 ha)
        exact retireWrite_keeps ((memRead_keeps hr).trans (.of_fields (reservation := fun _ => aligned))) rfl

theorem execScW_keeps (rd rs2 rs1 : Reg) (aq rl : BitVec 1) (s : State) : NextKeeps s (execScW rd rs2 rs1 aq rl s) := by
  unfold execScW
  split
  · exact nextKeeps_next (exceptionEntry_keeps _ _ _ s)
  · split
    · exact nextKeeps_refused s _
    · split
      · split
        · exact nextKeeps_refused s _
        · next hw => exact retireWrite_keeps ((clearReservation_keeps s).trans (memWrite_keeps hw)) rfl
      · exact retireWrite_keeps (clearReservation_keeps s) rfl

/-! ## CSR instructions -/

/-- What a write to an `MPP` field leaves there is a legal mode (R296). -/
theorem legalPriv_legalMpp (c : Config) (free : Bool) (p : BitVec 2) : LegalPriv c (legalMpp c free p) :=
  legalPriv_ite c _

/-- A CSR write masks what it stores as R40, R42 and R59 to R61 say. -/
theorem CsrsOk.csrsWrite {c : Config} {k : Csrs} (h : CsrsOk c k) (free1 free2 : Bool) (v : Word) (r : CsrReg) :
    CsrsOk c (csrsWrite c free1 free2 v k r) := by
  cases r with
  | mstatus => exact { h with mpp := legalPriv_legalMpp _ _ _ }
  | mtvt => exact { h with mtvt := clearLow_idem _ v }
  | mepc => exact { h with mepc := clearBit0_even v }
  | mcause => exact { h with mpp := legalPriv_legalMpp _ _ _ }
  | msavestatus => exact { h with mpp1 := legalPriv_legalMpp _ _ _, mpp2 := legalPriv_legalMpp _ _ _ }
  | msaveepc1 => exact { h with msaveepc1 := clearBit0_even v }
  | msaveepc2 => exact { h with msaveepc2 := clearBit0_even v }
  | msavecause1 => exact { h with msavecause1 := causeMask_idem v }
  | msavecause2 => exact { h with msavecause2 := causeMask_idem v }
  | _ => exact { h with }

theorem csrWrite_keeps (r : CsrReg) (v : Word) (s : State) : Keeps s (csrWrite r v s) :=
  .of_fields (csr := fun h => h.csrsOk.csrsWrite _ _ v r)

theorem csrAccess_keeps (fn : CsrFn) (src : CsrSrc) (rd : Reg) (r : CsrReg) (s : State) :
    NextKeeps s (csrAccess fn src rd r s) := by
  have counted : Keeps s (if csrWrites fn src && isInstret r then s else countRetired s) := by
    split
    · exact .refl s
    · exact countRetired_keeps s
  have written (v : Word) (u : State) : Keeps u (if csrWrites fn src then csrWrite r v u else u) := by
    split
    · exact csrWrite_keeps r v u
    · exact .refl u
  exact nextKeeps_next (.setPc ((counted.trans (written _ _)).trans (setReg_keeps rd (csrRead s r) _))
    fun h => even_add h.pc rfl)

theorem scratchSwap_keeps (swap : Bool) (rd rs1 : Reg) (s : State) : NextKeeps s (scratchSwap swap rd rs1 s) := by
  unfold scratchSwap
  split
  · exact retireWrite_keeps (setCsr_keeps fun h => { h.csrsOk with }) rfl
  · exact retireWrite_keeps (.refl s) rfl

theorem claimInterrupt_keeps (r : Candidate) (s : State) : Keeps s (claimInterrupt r s) := by
  unfold claimInterrupt
  refine .trans ?_ (claimSource_keeps r.id _)
  exact setCsr_keeps fun h => { h.csrsOk with }

theorem mnxtiStatus_keeps (fn : CsrFn) (src : CsrSrc) (s : State) : Keeps s (mnxtiStatus fn src s) := by
  unfold mnxtiStatus
  split
  · exact csrWrite_keeps _ _ s
  · exact .refl s

theorem setMie_keeps (s : State) : Keeps s (setMie s) :=
  setCsr_keeps fun h => { h.csrsOk with }

theorem mnxtiOp_keeps (fn : CsrFn) (src : CsrSrc) (rd : Reg) (s : State) : NextKeeps s (mnxtiOp fn src rd s) := by
  unfold mnxtiOp
  split
  · exact retireWrite_keeps (mnxtiStatus_keeps fn src s) rfl
  · next r _ =>
    split
    · exact nextKeeps_next (exceptionEntry_keeps _ _ _ s)
    · refine retireWrite_keeps ?_ rfl
      split
      · exact (mnxtiStatus_keeps fn src s).trans (claimInterrupt_keeps r _)
      · exact .refl s

theorem jalmnxtiOp_keeps (rd : Reg) (s : State) : NextKeeps s (jalmnxtiOp rd s) := by
  unfold jalmnxtiOp
  split
  · exact retire_keeps (.refl s) rfl
  · next r _ =>
    split
    · exact nextKeeps_next (exceptionEntry_keeps _ _ _ s)
    · next t _ =>
      exact retireTo_keeps (((claimInterrupt_keeps r s).trans (setMie_keeps _)).trans (setReg_keeps rd s.pc _))
        fun _ => clearBit0_even t

theorem pushResult_keeps (rd : Reg) (s : State) : Keeps s (pushResult rd s) := .of_fields

theorem pushOp_keeps (v : Word) (rd : Reg) (uimm : BitVec 5) (s : State) : NextKeeps s (pushOp v rd uimm s) := by
  unfold pushOp
  split
  · exact nextKeeps_next (exceptionEntry_keeps _ _ _ s)
  · split
    · next h => exact retire_keeps ((memWrite_keeps h).trans (pushResult_keeps rd _)) rfl
    · exact nextKeeps_refused s _

theorem csrOperation_keeps (fn : CsrFn) (src : CsrSrc) (rd : Reg) (o : CsrOp) (s : State) :
    NextKeeps s (csrOperation fn src rd o s) := by
  cases o with
  | mscratchcsw | mscratchcswl =>
    simp only [csrOperation]
    split
    · exact scratchSwap_keeps _ rd _ s
    · exact nextKeeps_refused s _
  | mnxti =>
    simp only [csrOperation]
    split
    · exact nextKeeps_refused s _
    · exact mnxtiOp_keeps fn src rd s
  | jalmnxti =>
    simp only [csrOperation]
    split
    · exact jalmnxtiOp_keeps rd s
    · exact nextKeeps_refused s _
  | pushmsubm | pushmcause | pushmepc =>
    simp only [csrOperation]
    split
    · exact pushOp_keeps _ rd _ s
    · exact nextKeeps_refused s _

theorem csrInstr_keeps (fn : CsrFn) (src : CsrSrc) (rd : Reg) (a : BitVec 12) (w : Word) (s : State) :
    NextKeeps s (csrInstr fn src rd a w s) := by
  unfold csrInstr
  split
  · exact nextKeeps_next (exceptionEntry_keeps _ _ _ s)
  · split
    · split
      · exact csrAccess_keeps fn src rd _ s
      · exact csrOperation_keeps fn src rd _ s
    · exact nextKeeps_next (exceptionEntry_keeps _ _ _ s)

/-! ## System instructions -/

theorem execMret_keeps (s : State) : NextKeeps s (execMret s) := by
  unfold execMret
  split
  · exact nextKeeps_next (exceptionEntry_keeps _ _ _ s)
  · exact nextKeeps_next ((returnFromTrap_keeps s).trans (countRetired_keeps _))

theorem execWfi_keeps (s : State) : NextKeeps s (execWfi s) := by
  unfold execWfi
  split
  · exact retire_keeps (.refl s) rfl
  · exact retire_keeps .of_fields rfl

/-! ## Every instruction -/

/-- Every instruction keeps the invariant: it is an operation of one of the shapes above. -/
theorem exec_keeps (i : Instr) (s : State) : NextKeeps s (exec i s) := by
  cases i with
  | lui | auipc | addi | slti | sltiu | xori | ori | andi | slli | srli | srai | add | sub | sll | slt | sltu | xor
  | srl | sra | or | and | mul | mulh | mulhsu | mulhu | div | divu | rem | remu | cAddi4spn | cAddi | cLi | cAddi16sp | cLui
  | cSrli | cSrai | cAndi | cSub | cXor | cOr | cAnd | cSlli | cMv | cAdd => exact retireWrite_keeps (.refl s) rfl
  | beq | bne | blt | bge | bltu | bgeu | cBeqz | cBnez => exact branchOp_keeps (even_offset _) rfl _ s
  | jal | cJal => exact jumpOp_keeps (fun h => even_add h.pc (even_offset _)) _ _
  | jalr | cJalr => exact jumpOp_keeps (fun _ => clearBit0_even _) _ _
  | cJ => exact retireTo_keeps (.refl s) fun h => even_add h.pc (even_offset _)
  | cJr => exact retireTo_keeps (.refl s) fun _ => clearBit0_even _
  | lb | lh | lw | lbu | lhu | cLw | cLwsp => exact loadOp_keeps rfl _ _ _ _ s
  | sb | sh | sw | cSw | cSwsp => exact storeOp_keeps rfl _ _ _ s
  | fence | cNop => exact retire_keeps (.refl s) rfl
  | fenceI => exact retire_keeps (.of_fields (stale := fun _ => rfl)) rfl
  | ecall => exact nextKeeps_next (environmentCall_keeps s)
  | ebreak | cEbreak => exact nextKeeps_next (breakpoint_keeps s)
  | mret => exact execMret_keeps s
  | wfi => exact execWfi_keeps s
  | csrrw | csrrs | csrrc | csrrwi | csrrsi | csrrci => exact csrInstr_keeps _ _ _ _ _ s
  | lrW rd rs1 aq rl => exact execLrW_keeps rd rs1 aq rl s
  | scW rd rs2 rs1 aq rl => exact execScW_keeps rd rs2 rs1 aq rl s
  | amoswapW | amoaddW | amoxorW | amoandW | amoorW | amominW | amomaxW | amominuW | amomaxuW =>
    exact amoOp_keeps _ _ _ _ s

/-! ## The step -/

theorem takeInputs_keeps (s : State) : Keeps s (takeInputs s) := .of_fields

theorem advanceCycles_keeps (s : State) : Keeps s (advanceCycles s) := by
  refine .of_fields (csr := fun h => ?_)
  unfold advanceCycles
  split
  · exact h.csrsOk
  · exact { h.csrsOk with }

theorem busWrite_keeps (s : State) (w : Word × Byte) : Keeps s (busWrite s w) := by
  unfold busWrite
  split
  · exact (storeByte_keeps w.1 w.2 s).trans (breakReservation_keeps w.1 1 _)
  · exact .refl s

theorem busWrites_keeps (ws : List (Word × Byte)) (s : State) : Keeps s (ws.foldl busWrite s) := by
  induction ws generalizing s with
  | nil => exact .refl s
  | cons w ws ih => exact (busWrite_keeps s w).trans (ih _)

theorem sampleNmi_keeps (s : State) : Keeps s (sampleNmi s) := .of_fields

theorem setTimer_keeps (u : Timer) (s : State) : Keeps s { s with timer := u } := .of_fields

theorem sampleLines_keeps (s : State) : Keeps s (sampleLines s) :=
  .of_fields (sources := fun h => h.sources.sampleLines)

/-- Sampling the inputs, part by part in its own order (R500). -/
theorem sampleInputs_keeps (s : State) : Keeps s (sampleInputs s) :=
  (takeInputs_keeps s).trans <| (advanceCycles_keeps _).trans <| (busWrites_keeps _ _).trans <|
    (sampleNmi_keeps _).trans <| (setTimer_keeps _ _).trans (sampleLines_keeps _)

theorem fetchExecute_keeps (s : State) : NextKeeps s (fetchExecute s) := by
  unfold fetchExecute
  split
  · exact nextKeeps_next (exceptionEntry_keeps _ _ _ s)
  · split
    · exact nextKeeps_next (exceptionEntry_keeps _ _ _ s)
    · exact exec_keeps _ s

theorem stepAwake_keeps (s : State) : NextKeeps s (stepAwake s) := by
  unfold stepAwake
  split
  · exact nextKeeps_next (nmiEntry_keeps s)
  · split
    · exact nextKeeps_next (busErrorException_keeps s)
    · split
      · next r _ =>
        split
        · exact nextKeeps_next (interruptEntry_keeps r s)
        · exact nextKeeps_fault s _
      · exact fetchExecute_keeps s

/-- A step samples, and then sleeps on or goes on awake (R400). -/
theorem step_keeps (s : State) : NextKeeps s (step s) := by
  have sampled := sampleInputs_keeps s
  show NextKeeps s (hartStep s)
  unfold hartStep
  split
  · exact nextKeeps_next sampled
  · intro t ht
    exact (sampled.trans .of_fields).trans (stepAwake_keeps { sampleInputs s with sleeping := false } t ht)

/-- Settles O3: sampling, each trap entry and each instruction keep every part of the invariant, and with it the
parameters. -/
theorem stepKeepsInvariant : Obligations.StepKeepsInvariant := by
  intro s t h
  obtain ⟨inv, cfg⟩ := step_keeps s t h
  exact ⟨inv, cfg⟩

end Sys2Proof.Machine
end

section
/-! PROOFS. The registers of the core as instructions reach them (spec/10_state.md R29 to R83, spec/20_memory.md R135 to
R137): loads and stores on the TIMER and the ECLIC, the writes of CSRs, and the values at reset. A load or store is
taken from the place it addresses to the whole instruction once, for every place; each device then says what its own read or
write does. -/

namespace Sys2Proof.Machine

/-! ## Loads and stores, from the place they address -/

/-- An aligned load whose read answers `v` and changes nothing puts `v`, extended, in `rd` (R260 to R265). -/
theorem load_computes {i : Instr} {rd base : Reg} {off len a v : Word} {e : Extend} {s : State}
    (hi : Load i rd base off e len) (ha : a = readReg s base + off) (aligned : a.toNat % e.size = 0)
    (hr : memRead a e.size s = .ok (truncateTo e.size v, s)) :
    RunsTo i s (fun t => Computes s t rd (e.apply v) (s.pc + len)) := by
  obtain ⟨ext, hx, hext⟩ := load_exec hi s
  obtain ⟨t, ht, hc⟩ := retireWrite_computes rd (ext (truncateTo e.size v)) len s
  rw [hext] at hc
  refine ⟨t, ?_, hc⟩
  rw [hx, ← ha, loadOp, misaligned_false aligned, hr]
  exact ht

/-- An aligned load whose read is refused stops by that name. -/
theorem load_refused {i : Instr} {rd base : Reg} {off len a : Word} {e : Extend} {s : State} {r : Refusal}
    (hi : Load i rd base off e len) (ha : a = readReg s base + off) (aligned : a.toNat % e.size = 0)
    (hr : memRead a e.size s = .error r) : exec i s = .refused r := by
  obtain ⟨ext, hx, -⟩ := load_exec hi s
  rw [hx, ← ha, loadOp, misaligned_false aligned, hr]
  rfl

/-- An aligned store does to the state what it does to the place it addresses, breaks an overlapping reservation, and
completes (R127, R260). -/
theorem store_computes {i : Instr} {src base : Reg} {off len a : Word} {n : Nat} {s s' : State}
    (hi : Store i src base off n len) (ha : a = readReg s base + off) (aligned : a.toNat % n = 0)
    (hw : writePlace a n (readReg s src) s = .ok s') :
    RunsTo i s (fun t => Computes { s' with reservation := reservationAfter s' a n } t 0#5 0#32 (s'.pc + len)) := by
  obtain ⟨hx, -⟩ := store_exec hi s
  obtain ⟨t, ht, hc⟩ := retireTo_computes (s'.pc + len) { s' with reservation := reservationAfter s' a n }
  refine ⟨t, ?_, hc⟩
  rw [hx, ← ha, storeOp, misaligned_false aligned, memWrite, hw]
  simp only [breakReservation_eq]
  exact ht

/-- An aligned store that its place refuses stops by that name. -/
theorem store_refused {i : Instr} {src base : Reg} {off len a : Word} {n : Nat} {s : State} {r : Refusal}
    (hi : Store i src base off n len) (ha : a = readReg s base + off) (aligned : a.toNat % n = 0)
    (hw : writePlace a n (readReg s src) s = .error r) : exec i s = .refused r := by
  obtain ⟨hx, -⟩ := store_exec hi s
  rw [hx, ← ha, storeOp, misaligned_false aligned, memWrite, hw]
  rfl

/-! ## The TIMER -/

theorem memRead_timer {s : State} {a : Word} (h : placeOf s.cfg a = .timer) :
    memRead a 4 s = .ok (timerRead s.timer (a - s.cfg.timerBase).toNat, s) := by
  unfold memRead; rw [h]; rfl

/-- The TIMER refuses a read of a byte or halfword (R135, U62). -/
theorem memRead_timer_size {s : State} {a : Word} {n : Nat} (h : placeOf s.cfg a = .timer) (hn : n ≠ 4) :
    memRead a n s = .error .timerAccessSize := by
  unfold memRead; rw [h]; exact if_neg hn

theorem writePlace_timer {s : State} {a : Word} (h : placeOf s.cfg a = .timer) (v : Word) :
    writePlace a 4 v s = .ok { s with timer := timerWrite (a - s.cfg.timerBase).toNat v s.timer } := by
  unfold writePlace; rw [h]; rfl

/-- The TIMER refuses a store of a byte or halfword (R135, U62). -/
theorem writePlace_timer_size {s : State} {a : Word} {n : Nat} (h : placeOf s.cfg a = .timer) (hn : n ≠ 4) (v : Word) :
    writePlace a n v s = .error .timerAccessSize := by
  unfold writePlace; rw [h]; exact if_neg hn

/-- A word store to the TIMER, register by register (R70 to R74). -/
theorem timerWrite_eq_timerStored (k : Nat) (v : Word) (u : Timer) : timerWrite k v u = timerStored u k v := by
  unfold timerWrite
  split_ifs <;> simp [timerStored, bitOf, *]

/-- Only the word load is of four bytes. -/
theorem Extend.size_ne_four {e : Extend} (h : e ≠ .word) : e.size ≠ 4 := by
  cases e with
  | word => exact absurd rfl h
  | signed8 | signed16 | unsigned8 | unsigned16 => decide

/-- Settles O36: on words the TIMER reads and writes by offset, and it refuses every other size. -/
theorem timerAccess : Obligations.TimerAccess := by
  intro s i rd base off len a n k e ha hp hk
  subst hk
  refine ⟨?_, ?_, ?_, ?_⟩
  · rintro hi rfl aligned
    exact load_computes hi ha aligned (memRead_timer hp)
  · rintro hi rfl aligned
    rw [← timerWrite_eq_timerStored]
    exact store_computes hi ha aligned (writePlace_timer hp _)
  · intro hi he aligned
    exact load_refused hi ha aligned (memRead_timer_size hp (Extend.size_ne_four he))
  · intro hi hn aligned
    exact store_refused hi ha aligned (writePlace_timer_size hp hn _)

/-! ## The ECLIC -/

theorem memRead_eclic {s : State} {a : Word} (h : placeOf s.cfg a = .eclic) (n : Nat) :
    memRead a n s = .ok (eclicRead s.cfg s.eclic (a - s.cfg.eclicBase).toNat n, s) := by
  unfold memRead; rw [h]

theorem writePlace_eclic {s : State} {a : Word} (h : placeOf s.cfg a = .eclic) (n : Nat) (v : Word) :
    writePlace a n v s =
      .ok { s with eclic := eclicWrite s.cfg (a - s.cfg.eclicBase).toNat n v s.eclic } := by
  unfold writePlace; rw [h]

/-- Loads are of one, two or four bytes. -/
theorem Extend.size_cases (e : Extend) : e.size = 1 ∨ e.size = 2 ∨ e.size = 4 := by
  cases e with
  | signed8 | unsigned8 => exact .inl rfl
  | signed16 | unsigned16 => exact .inr (.inl rfl)
  | word => exact .inr (.inr rfl)

/-- Settles O37: the four bytes are those of the byte registers from offset `k` on, of which the load takes as many as
it is wide. -/
theorem eclicReads : Obligations.EclicReads := by
  intro s i rd base off len a k e hi ha hp aligned hk
  have byte (j : Nat) := eclicReadByte_reads s.cfg s.eclic j
  refine ⟨_, _, _, _, ?_, byte k, byte (k + 1), byte (k + 2), byte (k + 3)⟩
  refine load_computes hi ha aligned ?_
  rw [memRead_eclic hp, ← hk, eclicRead_bytes _ _ _ _ e.size_cases]

/-- Settles O38: the store completes with the ECLIC that `eclicWrite` leaves. -/
theorem eclicWrites : Obligations.EclicWrites := by
  intro s i src base off len a n k hi ha hp aligned hk count
  obtain ⟨t, ht, hc⟩ := store_computes hi ha aligned (writePlace_eclic hp n (readReg s src))
  subst hk
  exact ⟨t, ht, _, hc, eclicWrite_stored count _ n _⟩

/-! ## Writes of CSRs -/

/-- The state a CSR instruction that writes `r` finds: the instruction is counted, unless `r` is a half of `minstret`
(R50). -/
def countedFor (r : CsrReg) (s : State) : State := if isInstret r then s else countRetired s

@[simp] theorem countedFor_cfg (r : CsrReg) (s : State) : (countedFor r s).cfg = s.cfg := by
  unfold countedFor; split <;> simp

@[simp] theorem countedFor_csr_mstatus (r : CsrReg) (s : State) : (countedFor r s).csr.mstatus = s.csr.mstatus := by
  unfold countedFor; split <;> simp

@[simp] theorem countedFor_csr_mcause (r : CsrReg) (s : State) : (countedFor r s).csr.mcause = s.csr.mcause := by
  unfold countedFor; split <;> simp

theorem countedFor_instret {r : CsrReg} (h : isInstret r = true) (s : State) : countedFor r s = s := if_pos h

theorem countedFor_other {r : CsrReg} (h : isInstret r = false) (s : State) : countedFor r s = countRetired s := by
  simp [countedFor, h]

/-- A CSR instruction that writes and is allowed: the count, the write, then the old value to `rd` (R290 to R295). -/
theorem csr_exec_write {f : CsrForm} {rd : Reg} {a : BitVec 12} {u : BitVec 5} {r : CsrReg} {s t : State}
    (ha : csrOfAddr a = some (.reg r)) (allowed : csrAllowed s (.reg r) (f.writes u) = true)
    (writes : f.writes u = true) (ht : exec (f.instr rd a u) s = .next t) :
    t = { setReg rd (csrRead s r) (csrWrite r (f.newValue (csrRead s r) (f.operand s u)) (countedFor r s)) with
      pc := s.pc + 4#32 } := by
  rw [csr_exec_reg ha allowed, writes, Bool.true_and, if_pos rfl] at ht
  exact (Host.Outcome.next.inj ht).symm

/-- The CSRs after it are those `csrsWrite` leaves, for two free choices of a mode. -/
theorem csr_exec_write_csr {f : CsrForm} {rd : Reg} {a : BitVec 12} {u : BitVec 5} {r : CsrReg} {s t : State}
    (ha : csrOfAddr a = some (.reg r)) (allowed : csrAllowed s (.reg r) (f.writes u) = true)
    (writes : f.writes u = true) (ht : exec (f.instr rd a u) s = .next t) :
    ∃ free1 free2, t.csr =
      csrsWrite s.cfg free1 free2 (f.newValue (csrRead s r) (f.operand s u)) (countedFor r s).csr r := by
  refine ⟨Config.freeBit (countedFor r s).draws, Config.freeBit ((countedFor r s).draws + 1), ?_⟩
  rw [csr_exec_write ha allowed writes ht, ← countedFor_cfg r s]
  exact setReg_csr _ _ _

/-! ### The saved modes -/

/-- Whatever the free choice, a write to an `MPP` field leaves a legal mode (R296). -/
theorem legalMpp_legal (c : Config) (free : Bool) (p : BitVec 2) : LegalMpp c p (legalMpp c free p) where
  noUser h := by simp [legalMpp, h]
  user h hp := by simp [legalMpp, h, hp]
  machine h hp := by simp [legalMpp, h, hp]

/-- A field of a field is a field of the whole. -/
theorem extract_extract {w : Nat} (v : BitVec w) {i k j l : Nat} (h : j + l ≤ k) :
    (v.extractLsb' i k).extractLsb' j l = v.extractLsb' (i + j) l := by
  apply BitVec.eq_of_getLsbD_eq
  intro m hm
  simp [hm, show j + m < k by omega, Nat.add_assoc]

/-- One level of `msavestatus` after a write, in bits of the word written: its byte begins at bit `i` (R59). -/
theorem savedStatusWrite_extract (c : Config) (free : Bool) (v : Word) (i : Nat) :
    savedStatusWrite c free (v.extractLsb' i 8) =
      { mpie := v.getLsbD i, mpp := legalMpp c free (v.extractLsb' (i + 1) 2), ptyp := v.extractLsb' (i + 6) 2 } := by
  have field {j l : Nat} (h : j + l ≤ 8) := extract_extract v (i := i) h
  rw [savedStatusWrite, field (by decide), field (by decide), BitVec.getLsbD_extractLsb']
  rfl

/-- Settles O45: each of the three writes sets the fields its row of R296 names, and the modes it leaves are legal. -/
theorem csrStatusWrites : Obligations.CsrStatusWrites := by
  intro s t f rd a u r v ha allowed writes hv ht
  obtain ⟨free1, free2, hcsr⟩ := csr_exec_write_csr ha allowed writes ht
  rw [← hv] at hcsr
  refine ⟨?_, ?_, ?_⟩
  · rintro rfl
    rw [hcsr]
    exact ⟨⟨rfl, rfl, legalMpp_legal _ free1 _, rfl⟩, countedFor_csr_mcause _ s⟩
  · rintro rfl
    rw [hcsr]
    have kept := countedFor_csr_mstatus .mcause s
    exact ⟨rfl, rfl, legalMpp_legal _ free1 _, (congrArg Mstatus.mie kept :), (congrArg Mstatus.xs kept :)⟩
  · rintro rfl
    have save1 : t.csr.save1 = _ := (congrArg Csrs.save1 hcsr).trans (savedStatusWrite_extract s.cfg free1 v 0)
    have save2 : t.csr.save2 = _ := (congrArg Csrs.save2 hcsr).trans (savedStatusWrite_extract s.cfg free2 v 8)
    rw [save1, save2]
    exact ⟨rfl, legalMpp_legal _ free1 _, rfl, rfl, legalMpp_legal _ free2 _, rfl⟩

/-! ### What a write leaves alone -/

/-- What a CSR reads as is decided by the parameters, the CSRs and the TIMER. -/
theorem csrRead_congr {s t : State} (cfg : t.cfg = s.cfg) (csr : t.csr = s.csr) (timer : t.timer = s.timer)
    (q : CsrReg) : csrRead t q = csrRead s q := by
  unfold csrRead mnvecValue
  rw [cfg, csr, timer]

/-- The low half of `mcycle` changes by a write to it alone (R49). -/
theorem csrsWrite_mcycle_low {r : CsrReg} (h : r ≠ .mcycle) (c : Config) (free1 free2 : Bool) (v : Word) (k : Csrs) :
    (csrsWrite c free1 free2 v k r).mcycle.extractLsb' 0 32 = k.mcycle.extractLsb' 0 32 := by
  cases r with
  | mcycle => exact absurd rfl h
  | mcycleh => exact (extract_append_low _ _ 0 32 (by decide)).trans (extract_all _)
  | _ => rfl

/-- The high half likewise. -/
theorem csrsWrite_mcycle_high {r : CsrReg} (h : r ≠ .mcycleh) (c : Config) (free1 free2 : Bool) (v : Word) (k : Csrs) :
    (csrsWrite c free1 free2 v k r).mcycle.extractLsb' 32 32 = k.mcycle.extractLsb' 32 32 := by
  cases r with
  | mcycleh => exact absurd rfl h
  | mcycle => exact (extract_append_high _ _ 32 32 (by decide)).trans (extract_all _)
  | _ => rfl

/-- The low half of `minstret` changes by a write to it alone (R50). -/
theorem csrsWrite_minstret_low {r : CsrReg} (h : r ≠ .minstret) (c : Config) (free1 free2 : Bool) (v : Word)
    (k : Csrs) : (csrsWrite c free1 free2 v k r).minstret.extractLsb' 0 32 = k.minstret.extractLsb' 0 32 := by
  cases r with
  | minstret => exact absurd rfl h
  | minstreth => exact (extract_append_low _ _ 0 32 (by decide)).trans (extract_all _)
  | _ => rfl

/-- The high half likewise. -/
theorem csrsWrite_minstret_high {r : CsrReg} (h : r ≠ .minstreth) (c : Config) (free1 free2 : Bool) (v : Word)
    (k : Csrs) : (csrsWrite c free1 free2 v k r).minstret.extractLsb' 32 32 = k.minstret.extractLsb' 32 32 := by
  cases r with
  | minstreth => exact absurd rfl h
  | minstret => exact (extract_append_high _ _ 32 32 (by decide)).trans (extract_all _)
  | _ => rfl

/-- Only a write to a half of `minstret` changes it. -/
theorem csrsWrite_minstret {r : CsrReg} (h : isInstret r = false) (c : Config) (free1 free2 : Bool) (v : Word)
    (k : Csrs) : (csrsWrite c free1 free2 v k r).minstret = k.minstret := by
  cases r with
  | minstret | minstreth => exact nomatch h
  | _ => rfl

/-- A write changes no CSR that does not show the same storage (R298). -/
theorem csrRead_csrWrite_of_not_shown {r q : CsrReg} (h : showsStorage r q = false) (v : Word) (s : State) :
    csrRead (csrWrite r v s) q = csrRead s q := by
  have ne : r ≠ q := by rintro rfl; simp [showsStorage] at h
  cases q with
  | mvendorid | marchid | mimpid | mhartid | misa | mie | mip | time | timeh | txevt => rfl
  | mcycle | cycle => exact csrsWrite_mcycle_low (by rintro rfl; exact nomatch h) _ _ _ v _
  | mcycleh | cycleh => exact csrsWrite_mcycle_high (by rintro rfl; exact nomatch h) _ _ _ v _
  | minstret | instret => exact csrsWrite_minstret_low (by rintro rfl; exact nomatch h) _ _ _ v _
  | minstreth | instreth => exact csrsWrite_minstret_high (by rintro rfl; exact nomatch h) _ _ _ v _
  | mstatus | mcause =>
    cases r with
    | mstatus | mcause => exact nomatch h
    | _ => rfl
  | mnvec =>
    cases r with
    | mtvec | mmiscCtl => exact nomatch h
    | _ => rfl
  | _ => cases r <;> first | exact absurd rfl ne | rfl

/-- Counting an instruction shows in `minstret` and its copies alone. -/
theorem csrRead_countRetired {q : CsrReg} (h : countsRetired q = false) (s : State) :
    csrRead (countRetired s) q = csrRead s q := by
  unfold countRetired
  split
  · rfl
  · cases q with
    | minstret | minstreth | instret | instreth => exact nomatch h
    | _ => rfl

/-- A CSR that counts instructions and can be written is a half of `minstret`: its copies are read-only (R53). -/
theorem isInstret_eq_countsRetired {r : CsrReg} (h : csrAttr (.reg r) = .mrw) : isInstret r = countsRetired r := by
  cases r with
  | instret | instreth => exact nomatch h
  | _ => rfl

/-- A write that the check of R289 allows names a read-write CSR. -/
theorem csrAttr_of_allowed_write {s : State} {n : CsrName} (h : csrAllowed s n true = true) : csrAttr n = .mrw := by
  simp only [csrAllowed, Bool.not_true, Bool.false_or, Bool.and_eq_true, beq_iff_eq] at h
  exact h.2

/-- Settles O46: the write itself reaches no other storage, and the count shows only in `minstret`. -/
theorem csrWriteFrame : Obligations.CsrWriteFrame := by
  intro s t f rd a u r q ha allowed writes ht hq
  have attr : csrAttr (.reg r) = .mrw := csrAttr_of_allowed_write (writes ▸ allowed)
  have instret := isInstret_eq_countsRetired attr
  refine ⟨fun hcount => ?_, fun hr => ?_⟩
  · have counted : csrRead (countedFor r s) q = csrRead s q := by
      cases hr : isInstret r with
      | true => rw [countedFor_instret hr]
      | false =>
        rw [countedFor_other hr]
        exact csrRead_countRetired (hcount.resolve_right (by rw [← instret, hr]; decide)) s
    have written := csr_exec_write ha allowed writes ht
    calc csrRead t q
      _ = csrRead (csrWrite r (f.newValue (csrRead s r) (f.operand s u)) (countedFor r s)) q := by
        subst written
        exact csrRead_congr (setReg_cfg _ _ _) (setReg_csr _ _ _) (setReg_timer _ _ _) q
      _ = csrRead (countedFor r s) q := csrRead_csrWrite_of_not_shown hq _ _
      _ = csrRead s q := counted
  · rw [← instret] at hr
    obtain ⟨free1, free2, hcsr⟩ := csr_exec_write_csr ha allowed writes ht
    rw [hcsr, csrsWrite_minstret hr, countedFor_other hr, countRetired_csr_minstret]

/-! ## Reset -/

/-- `mstatus` at reset: all fields 0, but for an `MPP` that can only be M (R35). -/
theorem csrRead_mstatus_resetOf (c : Config) :
    csrRead (State.resetOf c) .mstatus = if c.hasUMode then 0x00000000#32 else 0x00001800#32 := by
  show mstatusValue { mie := false, mpie := false, mpp := mppReset c, xs := 0#2 } = _
  unfold mppReset
  split <;> rfl

theorem csrRead_mintstatus_resetOf (c : Config) : csrRead (State.resetOf c) .mintstatus = 0#32 := by
  show 0#8 ++ 0#24 = 0#32
  decide

theorem csrRead_mcounteren_resetOf (c : Config) : csrRead (State.resetOf c) .mcounteren = 0#32 := by
  show mcounterenValue { cy := false, tm := false, ir := false } = 0#32
  decide

theorem csrRead_mcountinhibit_resetOf (c : Config) : csrRead (State.resetOf c) .mcountinhibit = 0#32 := by
  show 0#29 ++ bit false ++ 0#1 ++ bit false = 0#32
  decide

/-- Settles O1: each register has its reset value by definition, but for `mstatus`, whose depends on User Mode, and the
sources, of which there are as many as the configuration says. -/
theorem resetValues : Obligations.ResetValues := by
  intro c
  exact ⟨rfl, rfl, rfl, csrRead_mstatus_resetOf c, csrRead_mintstatus_resetOf c,
    csrRead_mcounteren_resetOf c, csrRead_mcountinhibit_resetOf c, rfl, rfl, rfl, rfl, rfl, rfl, rfl,
    fun i => by rw [sourceAt_resetOf]; exact ⟨rfl, rfl, rfl, rfl⟩, rfl, rfl, rfl, rfl, rfl⟩

end Sys2Proof.Machine
end

section
/-! PROOFS. Memory as instructions reach it (spec/20_memory.md R121 to R146): what a read and a write do at each place,
said once; from there to the whole load, store, push (R308) or atomic instruction (R340 to R351); the fetches that fail
or find no instruction; and which instructions leave memory alone. -/

namespace Sys2Proof.Machine

/-- What a run shows of its end, so does anything that follows from it. -/
theorem RunsTo.imp {i : Instr} {s : State} {P Q : State → Prop} (h : RunsTo i s P) (hpq : ∀ t, P t → Q t) :
    RunsTo i s Q := by
  obtain ⟨t, ht, hp⟩ := h
  exact ⟨t, ht, hpq t hp⟩

/-! ## Reads and writes, place by place -/

/-- A read at another device answers a free value, and a bus error if the environment says so (R121, R126). -/
theorem memRead_device {s : State} {a : Word} {x : Bool} (h : placeOf s.cfg a = .device x) (n : Nat) :
    memRead a n s = .ok (truncateTo n (freeWord s),
      drawn { s with busErr := if s.now.busError then ⟨true, false, a⟩ else s.busErr }) := by
  unfold memRead; rw [h]
  cases s.now.busError <;> simp [raiseBusError, drawn]

/-- A read where nothing answers gives a free value and always a bus error (R121, R131). -/
theorem memRead_nothing {s : State} {a : Word} (h : placeOf s.cfg a = .nothing) (n : Nat) :
    memRead a n s = .ok (truncateTo n (freeWord s), drawn { s with busErr := ⟨true, false, a⟩ }) := by
  unfold memRead; rw [h]; rfl

/-- A write to a ROM or another device is ignored, or draws a bus error if the environment says so (R127, log 15). -/
theorem writePlace_romOrDevice {s : State} {a : Word}
    (h : placeOf s.cfg a = .rom ∨ ∃ x, placeOf s.cfg a = .device x) (n : Nat) (v : Word) :
    writePlace a n v s = .ok { s with busErr := if s.now.busError then ⟨true, true, a⟩ else s.busErr } := by
  unfold writePlace
  obtain h | ⟨x, h⟩ := h <;> rw [h] <;> cases s.now.busError <;> simp [raiseBusError]

/-- A write where nothing answers is lost, with a bus error (R131). -/
theorem writePlace_nothing {s : State} {a : Word} (h : placeOf s.cfg a = .nothing) (n : Nat) (v : Word) :
    writePlace a n v s = .ok { s with busErr := ⟨true, true, a⟩ } := by
  unfold writePlace; rw [h]; rfl

/-- The two in one: outside RAM, the TIMER and the ECLIC a write stores nothing. -/
theorem writePlace_unstored {s : State} {a : Word}
    (h : placeOf s.cfg a = .nothing ∨ placeOf s.cfg a = .rom ∨ ∃ x, placeOf s.cfg a = .device x) (n : Nat) (v : Word) :
    writePlace a n v s = .ok { s with
      busErr := if placeOf s.cfg a = .nothing ∨ s.now.busError = true then ⟨true, true, a⟩ else s.busErr } := by
  rcases h with h | h
  · rw [writePlace_nothing h, if_pos (.inl h)]
  · have answers : placeOf s.cfg a ≠ .nothing := by
      obtain h | ⟨x, h⟩ := h <;> rw [h] <;> exact Place.noConfusion
    rw [writePlace_romOrDevice h]
    simp [answers]

/-- A write does what it does to the place, and then breaks an overlapping reservation (R127). -/
theorem memWrite_of_writePlace {s s' : State} {a : Word} {n : Nat} {v : Word} (h : writePlace a n v s = .ok s') :
    memWrite a n v s = .ok { s' with reservation := reservationAfter s' a n } := by
  rw [memWrite, h]
  simp only [breakReservation_eq]

/-- In RAM a write changes memory, the window of R143 and the reservation only: it writes its bytes. -/
theorem memWrite_ram_bytes {s : State} {a : Word} {n : Nat} (h : placeOf s.cfg a = .ram) (hm : s.mem.wf = true)
    (hn : n = 1 ∨ n = 2 ∨ n = 4) (v : Word) :
    ∃ mem stale, memWrite a n v s =
        .ok { s with mem := mem, stale := stale, reservation := reservationAfter s a n } ∧
      BytesWritten s { s with mem := mem, stale := stale } a n v := by
  have stored : storeBytes a n v s =
      { s with mem := (storeBytes a n v s).mem, stale := (storeBytes a n v s).stale } := by
    unfold storeBytes storeByte
    (repeat' split) <;> rfl
  refine ⟨_, _, ?_, stored ▸ byteAt_storeBytes hm hn a v⟩
  rw [memWrite_ram h, breakReservation_eq]
  conv => lhs; rw [stored]
  rfl

/-! ## Memory kept, and bytes written -/

theorem MemoryKept.refl (s : State) : MemoryKept s s := ⟨fun _ => rfl, rfl⟩

theorem MemoryKept.trans {s t u : State} (h : MemoryKept s t) (h' : MemoryKept t u) : MemoryKept s u :=
  ⟨fun a => (h'.bytes a).trans (h.bytes a), h'.stale.trans h.stale⟩

/-- Where memory and the window are as before, fetches see what they saw. -/
theorem MemoryKept.fetchSees {s t : State} (h : MemoryKept s t) (old : Bool) (a : Word) :
    fetchSees t old a = fetchSees s old a := by
  unfold Machine.fetchSees
  rw [h.stale, h.bytes]

/-- What follows a store without touching memory leaves its bytes written. -/
theorem BytesWritten.trans_kept {s u t : State} {a v : Word} {n : Nat} (h : BytesWritten s u a n v)
    (kept : MemoryKept u t) : BytesWritten s t a n v where
  stored k hk := (kept.bytes _).trans (h.stored k hk)
  outside b hb := (kept.bytes b).trans (h.outside b hb)
  old hs b := (kept.fetchSees true b).trans (h.old hs b)

/-- An instruction that stores bytes and also writes `rd`: beside `rd` it does what a store does. -/
theorem Computes.stores {s t : State} {mem : Memory} {stale : Stale} {a v w next : Word} {n : Nat} {rd : Reg}
    (h : Computes { s with mem := mem, stale := stale, reservation := reservationAfter s a n } t rd w next)
    (written : BytesWritten s { s with mem := mem, stale := stale } a n v) :
    RegWrite s t rd w ∧ Stores { s with x := t.x } t a n v next := by
  refine ⟨⟨h.regs.dest, h.regs.others⟩, ?_⟩
  constructor
  case memory =>
    have kept : MemoryKept { s with mem := mem, stale := stale } t := ⟨h.memory.bytes, h.memory.stale⟩
    obtain ⟨stored, outside, old⟩ := written.trans_kept kept
    exact ⟨stored, outside, old⟩
  case regs => exact fun _ => rfl
  case pc => exact h.pc
  case priv => exact h.priv
  case csrs => exact ⟨h.csrs.count, h.csrs.others⟩
  case units =>
    obtain ⟨cfg, timer, eclic, nmiPending, nmiPrev, sleeping, busErr, txEvt, now, future⟩ := h.units
    exact ⟨cfg, timer, eclic, nmiPending, nmiPrev, sleeping, busErr, txEvt, now, future⟩
  case reservation => exact h.reservation

/-! ## The bytes of a load -/

theorem wordAt_low8 (s : State) (a : Word) : (wordAt s a).extractLsb' 0 8 = byteAt s a :=
  (extract_append_low _ _ 0 8 (by decide)).trans (extract_all _)

theorem wordAt_low16 (s : State) (a : Word) : (wordAt s a).extractLsb' 0 16 = halfAt s a := by
  have split : wordAt s a = (byteAt s (a + 3#32) ++ byteAt s (a + 2#32)) ++ halfAt s a := by
    rw [wordAt, BitVec.append_assoc]; rfl
  rw [split, extract_append_low _ _ 0 16 (by decide), extract_all]

/-- A read of 1, 2 or 4 bytes is the low part of the word there (R123). -/
theorem memValue_eq_truncateTo (s : State) (a : Word) {n : Nat} (hn : n = 1 ∨ n = 2 ∨ n = 4) :
    memValue s a n = truncateTo n (wordAt s a) := by
  obtain rfl | rfl | rfl := hn
  · exact congrArg (BitVec.zeroExtend 32) (wordAt_low8 s a).symm
  · exact congrArg (BitVec.zeroExtend 32) (wordAt_low16 s a).symm
  · rfl

/-! ## Loads -/

/-- An aligned load whose read answers `v` and leaves the state `s'` puts `v`, extended, in `rd` there. -/
theorem load_computes_after {i : Instr} {rd base : Reg} {off len a v : Word} {e : Extend} {s s' : State}
    (hi : Load i rd base off e len) (ha : a = readReg s base + off) (aligned : a.toNat % e.size = 0)
    (hr : memRead a e.size s = .ok (truncateTo e.size v, s')) :
    RunsTo i s (fun t => Computes s' t rd (e.apply v) (s'.pc + len)) := by
  obtain ⟨ext, hx, hext⟩ := load_exec hi s
  obtain ⟨t, ht, hc⟩ := retireWrite_computes rd (ext (truncateTo e.size v)) len s'
  rw [hext] at hc
  refine ⟨t, ?_, hc⟩
  rw [hx, ← ha, loadOp, misaligned_false aligned, hr]
  exact ht

/-- An aligned load from RAM or ROM extends the bytes there (R123, R126). -/
theorem load_inMemory {i : Instr} {rd base : Reg} {off len a : Word} {e : Extend} {s : State}
    (hi : Load i rd base off e len) (hp : inMemory s a) (ha : a = readReg s base + off)
    (aligned : a.toNat % e.size = 0) :
    RunsTo i s (fun t => Computes s t rd (e.apply (wordAt s a)) (s.pc + len)) := by
  refine load_computes hi ha aligned ?_
  rw [memRead_memory hp, memValue_eq_truncateTo s a e.size_cases]

/-- Settles O30: each load takes its part of the word at the address. -/
theorem loadsFromMemory : Obligations.LoadsFromMemory := by
  intro s rd rs1 imm crd crs1 u5 u6 a hp
  refine ⟨fun ha => ⟨?_, ?_, fun aligned => ⟨?_, ?_⟩, fun aligned => ?_⟩, fun ha aligned => ?_, fun ha aligned => ?_⟩
  · exact wordAt_low8 s a ▸ load_inMemory (.lb rd rs1 imm) hp ha (Nat.mod_one _)
  · exact wordAt_low8 s a ▸ load_inMemory (.lbu rd rs1 imm) hp ha (Nat.mod_one _)
  · exact wordAt_low16 s a ▸ load_inMemory (.lh rd rs1 imm) hp ha aligned
  · exact wordAt_low16 s a ▸ load_inMemory (.lhu rd rs1 imm) hp ha aligned
  · exact load_inMemory (.lw rd rs1 imm) hp ha aligned
  · exact load_inMemory (.cLw crd crs1 u5) hp ha aligned
  · exact load_inMemory (.cLwsp rd u6) hp ha aligned

/-- Settles O33: the read draws a free value, which is all that it adds to the bus error. -/
theorem loadsOutsideMemory : Obligations.LoadsOutsideMemory := by
  intro s i rd rs1 off len a e hi ha aligned
  refine ⟨fun hp => ⟨freeWord s, ?_⟩, fun x hp => ⟨freeWord s, ?_⟩⟩
  · exact (load_computes_after hi ha aligned (memRead_nothing hp _)).imp fun _ => computes_of_drawn
  · exact (load_computes_after hi ha aligned (memRead_device hp _)).imp fun _ => computes_of_drawn

/-! ## Stores -/

/-- Settles O31: `storeOp_ram` on the operands of the store's row. -/
theorem storesToRam : Obligations.StoresToRam := by
  intro s i src base off len a n hi hm ha hp aligned
  obtain ⟨hx, hn⟩ := store_exec hi s
  obtain ⟨t, ht, hs⟩ := storeOp_ram hm hn hp (misaligned_false aligned) (readReg s src) len
  exact ⟨t, by rw [hx, ← ha, ht], hs⟩

/-- Settles O34: the place takes no bytes, and what it does to the bus error the whole store does. -/
theorem storesOutsideRam : Obligations.StoresOutsideRam := by
  intro s i src base off len a n hi ha aligned
  exact ⟨fun hp => store_computes hi ha aligned (writePlace_nothing hp n _),
    fun hp => store_computes hi ha aligned (writePlace_romOrDevice hp n _)⟩

/-! ## Fences -/

/-- Settles O35: both complete; after `fence.i` no byte has old contents left. -/
theorem fenceResults : Obligations.FenceResults := by
  intro s fm pred succ imm rs1 rd
  refine ⟨retireTo_computes (s.pc + 4#32) s, ?_⟩
  obtain ⟨t, ht, hc⟩ := retireTo_computes (s.pc + 4#32) { s with stale := [] }
  refine ⟨t, ht, hc, fun old a => ?_⟩
  rw [hc.memory.fetchSees]
  cases old <;> rfl

/-! ## Misaligned accesses -/

theorem load_misaligned {i : Instr} {rd base : Reg} {off len : Word} {e : Extend} {s : State}
    (hi : Load i rd base off e len) (ha : (readReg s base + off).toNat % e.size ≠ 0) :
    RunsTo i s (fun t => TakesException s t 4#12 (readReg s base + off)) := by
  obtain ⟨ext, hx, -⟩ := load_exec hi s
  exact ⟨_, hx.trans (if_pos (misaligned_true ha)), exceptionEntry_takes _ _ s⟩

theorem store_misaligned {i : Instr} {src base : Reg} {off len : Word} {n : Nat} {s : State}
    (hi : Store i src base off n len) (ha : (readReg s base + off).toNat % n ≠ 0) :
    RunsTo i s (fun t => TakesException s t 6#12 (readReg s base + off)) := by
  obtain ⟨hx, -⟩ := store_exec hi s
  exact ⟨_, hx.trans (if_pos (misaligned_true ha)), exceptionEntry_takes _ _ s⟩

theorem amo_misaligned {i : Instr} {rd rs2 rs1 : Reg} {f : Word → Word → Word} {s : State}
    (hi : Amo i rd rs2 rs1 f) (ha : (readReg s rs1).toNat % 4 ≠ 0) :
    RunsTo i s (fun t => TakesException s t 6#12 (readReg s rs1)) :=
  ⟨_, (amo_exec hi s).trans (if_pos (misaligned_true ha)), exceptionEntry_takes _ _ s⟩

/-- Settles O32: every access begins with the alignment check, before its place or the reservation is looked at. -/
theorem misalignedAccessTraps : Obligations.MisalignedAccessTraps := by
  intro s i rd rs2 rs1 off len n e f aq rl
  refine ⟨load_misaligned, store_misaligned, fun ha => ⟨?_, ?_, fun hi => amo_misaligned hi ha⟩⟩
  · exact ⟨_, if_pos (misaligned_true ha), exceptionEntry_takes 4#12 _ s⟩
  · exact ⟨_, if_pos (misaligned_true ha), exceptionEntry_takes 6#12 _ s⟩

/-! ## Push operations -/

/-- In Machine Mode the check of R289 lets every access to an operation CSR through. -/
theorem csrInstr_op {a : BitVec 12} {o : CsrOp} {s : State} (ha : csrOfAddr a = some (.op o)) (hp : s.priv = .M)
    (fn : CsrFn) (src : CsrSrc) (rd : Reg) (w : Word) : csrInstr fn src rd a w s = csrOperation fn src rd o s := by
  have allowed : csrAllowed s (.op o) (csrWrites fn src) = true := by simp [csrAllowed, hp, csrAttr]
  simp only [csrInstr, ha, allowed, if_true]

/-- The three push operations differ in the CSR they store (R308). -/
theorem push_exec {s : State} {c : BitVec 12} {v : Word} (hp : s.priv = .M)
    (hc : (c = 0x7EB#12 ∧ v = csrRead s .msubm) ∨ (c = 0x7EE#12 ∧ v = csrRead s .mcause) ∨
      (c = 0x7EF#12 ∧ v = csrRead s .mepc)) (rd : Reg) (u : BitVec 5) :
    exec (.csrrwi rd c u) s = pushOp v rd u s := by
  obtain ⟨rfl, rfl⟩ | ⟨rfl, rfl⟩ | ⟨rfl, rfl⟩ := hc
  · exact csrInstr_op (a := 0x7EB#12) (o := .pushmsubm) rfl hp _ _ _ _
  · exact csrInstr_op (a := 0x7EE#12) (o := .pushmcause) rfl hp _ _ _ _
  · exact csrInstr_op (a := 0x7EF#12) (o := .pushmepc) rfl hp _ _ _ _

/-- After its store a push writes a free value to `rd`, if that is not x0, and completes (U42). -/
theorem pushResult_computes (rd : Reg) (s : State) :
    ∃ w t, retire 4#32 (pushResult rd s) = .next t ∧ Computes s t rd w (s.pc + 4#32) := by
  by_cases hrd : rd = 0#5
  · subst hrd
    exact ⟨0#32, retireTo_computes (s.pc + 4#32) s⟩
  · obtain ⟨t, ht, hc⟩ := retireWrite_computes rd (freeWord s) 4#32 (drawn s)
    refine ⟨freeWord s, t, ?_, computes_of_drawn hc⟩
    rw [pushResult, if_neg hrd]
    exact ht

/-- A push at an aligned address does what its write does, and completes with a free value in `rd`. -/
theorem push_computes {s s' : State} {a v : Word} {u : BitVec 5} (ha : a = pushAddress s u)
    (aligned : a.toNat % 4 = 0) (hw : memWrite a 4 v s = .ok s') (rd : Reg) :
    ∃ w t, pushOp v rd u s = .next t ∧ Computes s' t rd w (s'.pc + 4#32) := by
  obtain ⟨w, t, ht, hc⟩ := pushResult_computes rd s'
  refine ⟨w, t, ?_, hc⟩
  rw [pushOp, ← ha, misaligned_false aligned, hw]
  exact ht

/-- Settles O53: the write of a word at the address, place by place, and what every push adds to it. -/
theorem pushResults : Obligations.PushResults := by
  intro s rd c u a v hp ha hc
  have push := push_exec hp hc rd u
  have computes {s' : State} (aligned : a.toNat % 4 = 0) (hw : writePlace a 4 v s = .ok s') :
      ∃ w, RunsTo (.csrrwi rd c u) s (fun t =>
        Computes { s' with reservation := reservationAfter s' a 4 } t rd w (s'.pc + 4#32)) := by
    obtain ⟨w, t, ht, h⟩ := push_computes ha aligned (memWrite_of_writePlace hw) rd
    exact ⟨w, t, push.trans ht, h⟩
  refine ⟨?ram, ?unstored, ?timer, ?eclic, ?misaligned⟩
  case ram =>
    intro hm place aligned
    obtain ⟨mem, stale, hw, written⟩ := memWrite_ram_bytes place hm (n := 4) (by decide) v
    obtain ⟨w, t, ht, h⟩ := push_computes ha aligned hw rd
    obtain ⟨regs, stores⟩ := h.stores written
    exact ⟨t, push.trans ht, stores, w, regs⟩
  case unstored => exact fun place aligned => computes aligned (writePlace_unstored place 4 v)
  case timer =>
    intro place aligned
    rw [← timerWrite_eq_timerStored]
    exact computes aligned (writePlace_timer place v)
  case eclic =>
    intro place aligned count
    obtain ⟨w, h⟩ := computes aligned (writePlace_eclic place 4 v)
    exact ⟨w, h.imp fun t ht => ⟨_, ht, eclicWrite_stored count _ 4 v⟩⟩
  case misaligned =>
    intro unaligned
    subst ha
    exact ⟨_, push.trans (if_pos (misaligned_true unaligned)), exceptionEntry_takes _ _ s⟩

/-! ## Atomic instructions -/

theorem isDevice_iff (p : Place) : p.isDevice = true ↔ p = .timer ∨ p = .eclic ∨ ∃ x, p = .device x := by
  cases p <;> simp [Place.isDevice]

/-- RAM, a ROM, and where nothing answers: atomics are not refused there (R145). -/
theorem not_isDevice_of {s : State} {a : Word} (h : inMemory s a ∨ placeOf s.cfg a = .nothing) :
    (placeOf s.cfg a).isDevice = false := by
  obtain (h | h) | h := h <;> rw [h] <;> rfl

/-- An aligned `lr.w` off the devices: the read, the word in `rd`, the reservation (R341). -/
theorem lrW_computes {s s' : State} {rs1 : Reg} {a v : Word} (ha : a = readReg s rs1) (aligned : a.toNat % 4 = 0)
    (place : (placeOf s.cfg a).isDevice = false) (hr : memRead a 4 s = .ok (v, s')) (rd : Reg) (aq rl : BitVec 1) :
    RunsTo (.lrW rd rs1 aq rl) s (fun t =>
      Computes { s' with reservation := some a } t rd v (s'.pc + 4#32)) := by
  obtain ⟨t, ht, hc⟩ := retireWrite_computes rd v 4#32 { s' with reservation := some a }
  refine ⟨t, ?_, hc⟩
  show execLrW rd rs1 aq rl s = _
  rw [execLrW, ← ha, misaligned_false aligned, place, hr]
  exact ht

/-- Settles O55: the read of RAM or ROM gives the word there. -/
theorem loadReserved : Obligations.LoadReserved := by
  intro s rd rs1 aq rl hp aligned
  exact lrW_computes rfl aligned (not_isDevice_of (.inl hp)) (memRead_memory hp 4) rd aq rl

/-- An aligned `sc.w` off the devices that holds its reservation: it gives it up, writes, and returns 0 (R342). -/
theorem scW_succeeds {s s' : State} {rs2 rs1 : Reg} {a : Word} (ha : a = readReg s rs1) (aligned : a.toNat % 4 = 0)
    (place : (placeOf s.cfg a).isDevice = false) (held : s.reservation = some a) (hf : s.now.scFail = false)
    (hw : memWrite a 4 (readReg s rs2) { s with reservation := none } = .ok s') (rd : Reg) (aq rl : BitVec 1) :
    RunsTo (.scW rd rs2 rs1 aq rl) s (fun t => Computes s' t rd 0#32 (s'.pc + 4#32)) := by
  obtain ⟨t, ht, hc⟩ := retireWrite_computes rd 0#32 4#32 s'
  have succeeds : scSucceeds a s = true := by simp [scSucceeds, held, hf]
  refine ⟨t, ?_, hc⟩
  show execScW rd rs2 rs1 aq rl s = _
  rw [execScW, ← ha, misaligned_false aligned, place, succeeds, hw]
  exact ht

/-- An aligned `sc.w` off the devices that fails: it gives up the reservation and returns 1 (R342). -/
theorem scW_fails {s : State} {rs2 rs1 : Reg} {a : Word} (ha : a = readReg s rs1) (aligned : a.toNat % 4 = 0)
    (place : (placeOf s.cfg a).isDevice = false) (failing : s.reservation ≠ some a ∨ s.now.scFail = true) (rd : Reg)
    (aq rl : BitVec 1) :
    RunsTo (.scW rd rs2 rs1 aq rl) s (fun t => Computes { s with reservation := none } t rd 1#32 (s.pc + 4#32)) := by
  obtain ⟨t, ht, hc⟩ := retireWrite_computes rd 1#32 4#32 { s with reservation := none }
  have fails : scSucceeds a s = false := by
    obtain h | h := failing <;> simp [scSucceeds, h]
  refine ⟨t, ?_, hc⟩
  show execScW rd rs2 rs1 aq rl s = _
  rw [execScW, ← ha, misaligned_false aligned, place, fails]
  exact ht

/-- Settles O56: with the reservation given up first, the write finds none to break. -/
theorem storeConditional : Obligations.StoreConditional := by
  intro s rd rs2 rs1 aq rl a ha aligned
  refine ⟨?ram, ?unstored, ?fails⟩
  case ram =>
    intro hm place held hf
    obtain ⟨mem, stale, hw, written⟩ :=
      memWrite_ram_bytes (s := { s with reservation := none }) place hm (n := 4) (by decide) (readReg s rs2)
    refine (scW_succeeds ha aligned (not_isDevice_of (.inl (.inl place))) held hf hw rd aq rl).imp fun t h => ?_
    obtain ⟨regs, stores⟩ := h.stores written
    exact ⟨⟨regs.dest, regs.others⟩, stores⟩
  case unstored =>
    intro place held hf
    have unstored := writePlace_unstored (s := { s with reservation := none })
      (place.elim (fun h => .inr (.inl h)) .inl) 4 (readReg s rs2)
    exact scW_succeeds ha aligned (not_isDevice_of (place.imp_left .inr)) held hf (memWrite_of_writePlace unstored) rd
      aq rl
  case fails => exact fun place failing => scW_fails ha aligned (not_isDevice_of place) failing rd aq rl

/-- An aligned AMO off the devices: the read, the write of what `f` makes of it, the old word in `rd` (R343). -/
theorem amo_computes {i : Instr} {rd rs2 rs1 : Reg} {f : Word → Word → Word} {a v : Word} {s s1 s2 : State}
    (hi : Amo i rd rs2 rs1 f) (ha : a = readReg s rs1) (aligned : a.toNat % 4 = 0)
    (place : (placeOf s.cfg a).isDevice = false) (hr : memRead a 4 s = .ok (v, s1))
    (hw : memWrite a 4 (f v (readReg s rs2)) s1 = .ok s2) :
    RunsTo i s (fun t => Computes s2 t rd v (s2.pc + 4#32)) := by
  obtain ⟨t, ht, hc⟩ := retireWrite_computes rd v 4#32 s2
  refine ⟨t, ?_, hc⟩
  rw [amo_exec hi, amoOp, ← ha, misaligned_false aligned, place, hr]
  simp only [hw]
  exact ht

/-- On a device every aligned atomic stops by name (R145, U63). -/
theorem atomics_refused {i : Instr} {rd rs2 rs1 : Reg} {f : Word → Word → Word} {s : State} (hi : Amo i rd rs2 rs1 f)
    (aligned : (readReg s rs1).toNat % 4 = 0) (place : (placeOf s.cfg (readReg s rs1)).isDevice = true)
    (aq rl : BitVec 1) :
    exec i s = .refused .atomicOnDevice ∧ exec (.lrW rd rs1 aq rl) s = .refused .atomicOnDevice ∧
      exec (.scW rd rs2 rs1 aq rl) s = .refused .atomicOnDevice := by
  have check : misaligned (readReg s rs1) 4 = false := misaligned_false aligned
  refine ⟨?_, ?_, ?_⟩
  · rw [amo_exec hi, amoOp, check, place]; rfl
  · show execLrW rd rs1 aq rl s = _
    rw [execLrW, check, place]; rfl
  · show execScW rd rs2 rs1 aq rl s = _
    rw [execScW, check, place]; rfl

/-- Settles O58: where nothing answers, the bus error of an AMO's store takes the place of the one its load records. -/
theorem atomicsOutsideRam : Obligations.AtomicsOutsideRam := by
  intro s i rd rs2 rs1 f aq rl a hi ha aligned
  refine ⟨?rom, ?nothing, ?device⟩
  case rom =>
    intro place
    exact amo_computes hi ha aligned (not_isDevice_of (.inl (.inr place))) (memRead_memory (.inr place) 4)
      (memWrite_of_writePlace (writePlace_romOrDevice (.inl place) 4 _))
  case nothing =>
    intro place
    have off := not_isDevice_of (s := s) (.inr place)
    have read := memRead_nothing place 4
    have lost := writePlace_nothing (s := drawn { s with busErr := ⟨true, false, a⟩ }) place 4
      (f (freeWord s) (readReg s rs2))
    exact ⟨freeWord s,
      (amo_computes hi ha aligned off read (memWrite_of_writePlace lost)).imp fun _ =>
        computes_of_drawn (s := { s with busErr := ⟨true, true, a⟩, reservation := reservationAfter s a 4 }),
      (lrW_computes ha aligned off read rd aq rl).imp fun _ =>
        computes_of_drawn (s := { s with busErr := ⟨true, false, a⟩, reservation := some a })⟩
  case device =>
    intro place
    subst ha
    exact atomics_refused hi aligned ((isDevice_iff _).2 place) aq rl

/-! ## Fetches that execute nothing -/

/-- What is fetched and is no instruction takes Illegal Instruction (R408). -/
theorem fetchExecute_illegal {s : State} {code : Code} (hf : fetch s = .ok code) (hd : decodeCode code = none) :
    ∃ t, fetchExecute s = .next t ∧ TakesException s t 2#12 code.value := by
  refine ⟨illegalInstruction code.value s, ?_, exceptionEntry_takes _ _ s⟩
  simp only [fetchExecute, hf, hd]

/-- A fetch that fails at `a` takes Instruction access fault (R130). -/
theorem fetchExecute_fails {s : State} {a : Word} (hf : fetch s = .error a) :
    ∃ t, fetchExecute s = .next t ∧ TakesException s t 1#12 a := by
  refine ⟨accessFault a s, ?_, exceptionEntry_takes _ _ s⟩
  simp only [fetchExecute, hf]

/-- A parcel that does not announce 32 bits is decoded as a parcel. -/
theorem decodeCode_half {h : Half} (hw : isWide h = false) : decodeCode (.half h) = decode16 h := by
  simp [decodeCode, hw]

/-- Settles O13: the step is the fetch, which gives a parcel or a word that does not decode. -/
theorem stepRefusesIllegalEncoding : Obligations.StepRefusesIllegalEncoding := by
  rintro s _ rfl awake nothing low
  rw [step_executes awake nothing]
  exact ⟨fun wide hd => fetchExecute_illegal (fetch_half low wide) ((decodeCode_half wide).trans hd),
    fun wide high hd => fetchExecute_illegal (fetch_word low wide high) hd⟩

/-- Settles O14: the step is the fetch, which fails at its first or its second parcel. -/
theorem fetchFaults : Obligations.FetchFaults := by
  rintro s _ rfl awake nothing
  rw [step_executes awake nothing]
  exact ⟨fun low => fetchExecute_fails (fetch_fails_low low),
    fun low wide high => fetchExecute_fails (fetch_fails_high low wide high)⟩

/-! ## What leaves memory alone -/

/-- If the outcome is a next state, memory and the window of R143 are there as in `s`. -/
def NextKeepsMemory (s : State) (r : Result) : Prop := ∀ t, r = .next t → MemoryKept s t

theorem nextKeepsMemory_next {s t : State} (h : MemoryKept s t) : NextKeepsMemory s (.next t) := by
  rintro _ ⟨⟩; exact h

theorem nextKeepsMemory_refused (s : State) (r : Refusal) : NextKeepsMemory s (.refused r) := by
  intro _ h; cases h

theorem setReg_keepsMemory (r : Reg) (v : Word) (s : State) : MemoryKept s (setReg r v s) :=
  memoryKept_of (by simp) (by simp)

theorem countRetired_keepsMemory (s : State) : MemoryKept s (countRetired s) :=
  memoryKept_of (by simp) (by simp)

theorem retireTo_keepsMemory {s s' : State} (h : MemoryKept s s') (next : Word) :
    NextKeepsMemory s (retireTo next s') :=
  nextKeepsMemory_next (h.trans (memoryKept_of (by simp) (by simp)))

theorem retireWrite_keepsMemory {s s' : State} (h : MemoryKept s s') (rd : Reg) (v len : Word) :
    NextKeepsMemory s (retireWrite rd v len s') :=
  retireTo_keepsMemory (h.trans (setReg_keepsMemory rd v s')) _

theorem exceptionEntry_keepsMemory (code : BitVec 12) (tval epc : Word) (s : State) :
    MemoryKept s (exceptionEntry code tval epc s) :=
  memoryKept_of (by simp) (by simp)

/-- A read changes no byte, whatever answers it. -/
theorem memRead_keepsMemory {a : Word} {n : Nat} {s s' : State} {v : Word} (h : memRead a n s = .ok (v, s')) :
    MemoryKept s s' := by
  obtain ⟨w, hr⟩ | ⟨w, hr⟩ | ⟨w, hr⟩ | ⟨-, -, hr⟩ := memRead_cases a n s <;> rw [hr] at h <;> cases h <;>
    exact ⟨fun _ => rfl, rfl⟩

theorem loadOp_keepsMemory (rd : Reg) (a : Word) (n : Nat) (ext : Word → Word) (len : Word) (s : State) :
    NextKeepsMemory s (loadOp rd a n ext len s) := by
  unfold loadOp
  split
  · exact nextKeepsMemory_next (exceptionEntry_keepsMemory _ _ _ s)
  · split
    · next h => exact retireWrite_keepsMemory (memRead_keepsMemory h) _ _ _
    · exact nextKeepsMemory_refused s _

theorem execLrW_keepsMemory (rd rs1 : Reg) (aq rl : BitVec 1) (s : State) :
    NextKeepsMemory s (execLrW rd rs1 aq rl s) := by
  unfold execLrW
  split
  · exact nextKeepsMemory_next (exceptionEntry_keepsMemory _ _ _ s)
  · split
    · exact nextKeepsMemory_refused s _
    · split
      · exact nextKeepsMemory_refused s _
      · next h =>
        refine retireWrite_keepsMemory ((memRead_keepsMemory h).trans ?_) _ _ _
        exact memoryKept_of rfl rfl

theorem csrAccess_keepsMemory (fn : CsrFn) (src : CsrSrc) (rd : Reg) (r : CsrReg) (s : State) :
    NextKeepsMemory s (csrAccess fn src rd r s) := by
  have counted : MemoryKept s (if csrWrites fn src && isInstret r then s else countRetired s) := by
    split
    · exact .refl s
    · exact countRetired_keepsMemory s
  have written (v : Word) (u : State) : MemoryKept u (if csrWrites fn src then csrWrite r v u else u) := by
    split
    · exact memoryKept_of rfl rfl
    · exact .refl u
  have kept (v : Word) := (counted.trans (written v _)).trans (setReg_keepsMemory rd (csrRead s r) _)
  exact nextKeepsMemory_next ((kept _).trans (memoryKept_of rfl rfl))

theorem scratchSwap_keepsMemory (swap : Bool) (rd rs1 : Reg) (s : State) :
    NextKeepsMemory s (scratchSwap swap rd rs1 s) := by
  unfold scratchSwap
  split
  · refine retireWrite_keepsMemory ?_ _ _ _
    exact memoryKept_of rfl rfl
  · exact retireWrite_keepsMemory (.refl s) _ _ _

theorem mnxtiOp_keepsMemory (fn : CsrFn) (src : CsrSrc) (rd : Reg) (s : State) :
    NextKeepsMemory s (mnxtiOp fn src rd s) := by
  unfold mnxtiOp
  split
  · exact retireWrite_keepsMemory (memoryKept_of (by simp) (by simp)) _ _ _
  · split
    · exact nextKeepsMemory_next (exceptionEntry_keepsMemory _ _ _ s)
    · refine retireWrite_keepsMemory ?_ _ _ _
      split
      · exact memoryKept_of (by simp) (by simp)
      · exact .refl s

theorem jalmnxtiOp_keepsMemory (rd : Reg) (s : State) : NextKeepsMemory s (jalmnxtiOp rd s) := by
  unfold jalmnxtiOp
  split
  · exact retireTo_keepsMemory (.refl s) _
  · split
    · exact nextKeepsMemory_next (exceptionEntry_keepsMemory _ _ _ s)
    · exact retireTo_keepsMemory (memoryKept_of (by simp) (by simp)) _

/-- The only operations that store are the pushes, and they take the form `csrrwi`. -/
theorem csrOperation_keepsMemory {fn : CsrFn} {src : CsrSrc} (form : fn = .write → ∀ u, src ≠ .imm u) (rd : Reg)
    (o : CsrOp) (s : State) : NextKeepsMemory s (csrOperation fn src rd o s) := by
  cases o with
  | mscratchcsw | mscratchcswl =>
    simp only [csrOperation]
    split
    · exact scratchSwap_keepsMemory _ rd _ s
    · exact nextKeepsMemory_refused s _
  | mnxti =>
    simp only [csrOperation]
    split
    · exact nextKeepsMemory_refused s _
    · exact mnxtiOp_keepsMemory fn src rd s
  | jalmnxti =>
    simp only [csrOperation]
    split
    · exact jalmnxtiOp_keepsMemory rd s
    · exact nextKeepsMemory_refused s _
  | pushmsubm | pushmcause | pushmepc =>
    simp only [csrOperation]
    split
    · next u => exact absurd rfl (form rfl u)
    · exact nextKeepsMemory_refused s _

theorem csrInstr_keepsMemory {fn : CsrFn} {src : CsrSrc} (form : fn = .write → ∀ u, src ≠ .imm u) (rd : Reg)
    (a : BitVec 12) (w : Word) (s : State) : NextKeepsMemory s (csrInstr fn src rd a w s) := by
  unfold csrInstr
  split
  · exact nextKeepsMemory_next (exceptionEntry_keepsMemory _ _ _ s)
  · split
    · split
      · exact csrAccess_keepsMemory fn src rd _ s
      · exact csrOperation_keepsMemory form rd _ s
    · exact nextKeepsMemory_next (exceptionEntry_keepsMemory _ _ _ s)

theorem execMret_keepsMemory (s : State) : NextKeepsMemory s (execMret s) := by
  unfold execMret
  split
  · exact nextKeepsMemory_next (exceptionEntry_keepsMemory _ _ _ s)
  · exact nextKeepsMemory_next (memoryKept_of (by simp) (by simp))

theorem execWfi_keepsMemory (s : State) : NextKeepsMemory s (execWfi s) := by
  unfold execWfi
  split
  · exact retireTo_keepsMemory (.refl s) _
  · refine retireTo_keepsMemory ?_ _
    exact memoryKept_of rfl rfl

/-- An instruction that does not store and is not `fence.i` leaves memory and the window alone. -/
theorem exec_keepsMemory {i : Instr} (noStore : ¬ MayStore i) (noFence : ∀ imm rs1 rd, i ≠ .fenceI imm rs1 rd)
    (s : State) : NextKeepsMemory s (exec i s) := by
  have store {src base : Reg} {off len : Word} {n : Nat} : ¬ Store i src base off n len :=
    fun h => noStore (.inl ⟨_, _, _, _, _, h⟩)
  have amo {rd rs2 rs1 : Reg} {f : Word → Word → Word} : ¬ Amo i rd rs2 rs1 f :=
    fun h => noStore (.inr (.inl ⟨_, _, _, _, h⟩))
  cases i with
  | lui | auipc | addi | slti | sltiu | xori | ori | andi | slli | srli | srai | add | sub | sll | slt | sltu | xor
  | srl | sra | or | and | mul | mulh | mulhsu | mulhu | div | divu | rem | remu | cAddi4spn | cAddi | cLi | cAddi16sp
  | cLui | cSrli | cSrai | cAndi | cSub | cXor | cOr | cAnd | cSlli | cMv | cAdd =>
    exact retireWrite_keepsMemory (.refl s) _ _ _
  | beq | bne | blt | bge | bltu | bgeu | cBeqz | cBnez | cJ | cJr | fence | cNop =>
    exact retireTo_keepsMemory (.refl s) _
  | jal | jalr | cJal | cJalr => exact retireTo_keepsMemory (setReg_keepsMemory _ _ s) _
  | lb | lh | lw | lbu | lhu | cLw | cLwsp => exact loadOp_keepsMemory _ _ _ _ _ s
  | ecall | ebreak | cEbreak => exact nextKeepsMemory_next ⟨fun _ => rfl, rfl⟩
  | mret => exact execMret_keepsMemory s
  | wfi => exact execWfi_keepsMemory s
  | csrrw => exact csrInstr_keepsMemory (fun _ _ => CsrSrc.noConfusion) _ _ _ s
  | csrrs | csrrc | csrrsi | csrrci => exact csrInstr_keepsMemory (fun h => CsrFn.noConfusion h) _ _ _ s
  | lrW rd rs1 aq rl => exact execLrW_keepsMemory rd rs1 aq rl s
  | fenceI => exact absurd rfl (noFence _ _ _)
  | csrrwi => exact absurd (.inr (.inr (.inr ⟨_, _, _, rfl⟩))) noStore
  | scW => exact absurd (.inr (.inr (.inl ⟨_, _, _, _, _, rfl⟩))) noStore
  | sb => exact (store (.sb _ _ _)).elim
  | sh => exact (store (.sh _ _ _)).elim
  | sw => exact (store (.sw _ _ _)).elim
  | cSw => exact (store (.cSw _ _ _)).elim
  | cSwsp => exact (store (.cSwsp _ _)).elim
  | amoswapW => exact (amo (.swap _ _ _ _ _)).elim
  | amoaddW => exact (amo (.add _ _ _ _ _)).elim
  | amoxorW => exact (amo (.xor _ _ _ _ _)).elim
  | amoandW => exact (amo (.and _ _ _ _ _)).elim
  | amoorW => exact (amo (.or _ _ _ _ _)).elim
  | amominW => exact (amo (.min _ _ _ _ _)).elim
  | amomaxW => exact (amo (.max _ _ _ _ _)).elim
  | amominuW => exact (amo (.minu _ _ _ _ _)).elim
  | amomaxuW => exact (amo (.maxu _ _ _ _ _)).elim

/-- Settles O6: `fence.i` ends the window without changing a byte; the other instructions keep both. -/
theorem onlyStoresChangeMemory : Obligations.OnlyStoresChangeMemory := by
  intro i s t ht noStore
  by_cases hf : ∃ imm rs1 rd, i = .fenceI imm rs1 rd
  · obtain ⟨imm, rs1, rd, rfl⟩ := hf
    obtain ⟨t', ht', computes, -⟩ := (fenceResults s 0#4 0#4 0#4 imm rs1 rd).2
    cases ht.symm.trans ht'
    exact ⟨computes.memory.bytes, fun h => absurd rfl (h imm rs1 rd)⟩
  · have kept := exec_keepsMemory noStore (fun imm rs1 rd h => hf ⟨imm, rs1, rd, h⟩) s t ht
    exact ⟨kept.bytes, fun _ => kept.stale⟩

end Sys2Proof.Machine
end

section
/-! PROOFS. Encoding and decoding (spec/30_encoding.md). Each format is taken apart into its fields and put together
from them, once; from there each decoder gives back what the encoder laid out, and accepts nothing else; last, from a
word or a parcel to its bytes. -/

namespace Sys2Proof

/-! ## Joining fields -/

/-- Two neighbouring fields joined are one field, with the position where they meet written as a number. -/
theorem extract_join_at {n : Nat} (x : BitVec n) {i j k l : Nat} (meets : j = i + l) :
    x.extractLsb' j k ++ x.extractLsb' i l = x.extractLsb' i (k + l) := by
  subst meets
  exact extract_join x i k l

/-! ## The 32-bit formats: the fields of each (R162 to R165) -/

@[simp] theorem fields_rWord (f7 : BitVec 7) (rs2 rs1 : Reg) (f3 : BitVec 3) (rd : Reg) (op : BitVec 7) :
    fieldOpcode (rWord f7 rs2 rs1 f3 rd op) = op ∧ fieldRd (rWord f7 rs2 rs1 f3 rd op) = rd ∧
    fieldFunct3 (rWord f7 rs2 rs1 f3 rd op) = f3 ∧ fieldRs1 (rWord f7 rs2 rs1 f3 rd op) = rs1 ∧
    fieldRs2 (rWord f7 rs2 rs1 f3 rd op) = rs2 ∧ fieldFunct7 (rWord f7 rs2 rs1 f3 rd op) = f7 := by
  simp (disch := decide) only [rWord, fieldOpcode, fieldRd, fieldFunct3, fieldRs1, fieldRs2, fieldFunct7,
    extract_append_low, extract_append_high, Nat.reduceSub, extract_all, and_self]

@[simp] theorem fields_iWord (imm : BitVec 12) (rs1 : Reg) (f3 : BitVec 3) (rd : Reg) (op : BitVec 7) :
    fieldOpcode (iWord imm rs1 f3 rd op) = op ∧ fieldRd (iWord imm rs1 f3 rd op) = rd ∧
    fieldFunct3 (iWord imm rs1 f3 rd op) = f3 ∧ fieldRs1 (iWord imm rs1 f3 rd op) = rs1 ∧
    fieldImmI (iWord imm rs1 f3 rd op) = imm := by
  simp (disch := decide) only [iWord, fieldOpcode, fieldRd, fieldFunct3, fieldRs1, fieldImmI,
    extract_append_low, extract_append_high, Nat.reduceSub, extract_all, and_self]

@[simp] theorem fields_sWord (imm : BitVec 12) (rs2 rs1 : Reg) (f3 : BitVec 3) (op : BitVec 7) :
    fieldOpcode (sWord imm rs2 rs1 f3 op) = op ∧ fieldFunct3 (sWord imm rs2 rs1 f3 op) = f3 ∧
    fieldRs1 (sWord imm rs2 rs1 f3 op) = rs1 ∧ fieldRs2 (sWord imm rs2 rs1 f3 op) = rs2 ∧
    fieldImmS (sWord imm rs2 rs1 f3 op) = imm := by
  simp (disch := decide) only [sWord, fieldOpcode, fieldFunct3, fieldRs1, fieldRs2, fieldImmS,
    extract_append_low, extract_append_high, Nat.reduceSub, extract_join_at, extract_all, and_self]

@[simp] theorem fields_bWord (off : BitVec 12) (rs2 rs1 : Reg) (f3 : BitVec 3) (op : BitVec 7) :
    fieldOpcode (bWord off rs2 rs1 f3 op) = op ∧ fieldFunct3 (bWord off rs2 rs1 f3 op) = f3 ∧
    fieldRs1 (bWord off rs2 rs1 f3 op) = rs1 ∧ fieldRs2 (bWord off rs2 rs1 f3 op) = rs2 ∧
    fieldOffB (bWord off rs2 rs1 f3 op) = off := by
  simp (disch := decide) only [bWord, fieldOpcode, fieldFunct3, fieldRs1, fieldRs2, fieldOffB,
    extract_append_low, extract_append_high, Nat.reduceSub, extract_join_at, extract_all, and_self]

@[simp] theorem fields_uWord (imm : BitVec 20) (rd : Reg) (op : BitVec 7) :
    fieldOpcode (uWord imm rd op) = op ∧ fieldRd (uWord imm rd op) = rd ∧ fieldImmU (uWord imm rd op) = imm := by
  simp (disch := decide) only [uWord, fieldOpcode, fieldRd, fieldImmU,
    extract_append_low, extract_append_high, Nat.reduceSub, extract_all, and_self]

@[simp] theorem fields_jWord (off : BitVec 20) (rd : Reg) (op : BitVec 7) :
    fieldOpcode (jWord off rd op) = op ∧ fieldRd (jWord off rd op) = rd ∧ fieldOffJ (jWord off rd op) = off := by
  simp (disch := decide) only [jWord, fieldOpcode, fieldRd, fieldOffJ,
    extract_append_low, extract_append_high, Nat.reduceSub, extract_join_at, extract_all, and_self]

@[simp] theorem fields_amoWord (f5 : BitVec 5) (aq rl : BitVec 1) (rs2 rs1 rd : Reg) :
    fieldOpcode (amoWord f5 aq rl rs2 rs1 rd) = 0b0101111#7 ∧ fieldRd (amoWord f5 aq rl rs2 rs1 rd) = rd ∧
    fieldFunct3 (amoWord f5 aq rl rs2 rs1 rd) = 0b010#3 ∧ fieldRs1 (amoWord f5 aq rl rs2 rs1 rd) = rs1 ∧
    fieldRs2 (amoWord f5 aq rl rs2 rs1 rd) = rs2 ∧ fieldRl (amoWord f5 aq rl rs2 rs1 rd) = rl ∧
    fieldAq (amoWord f5 aq rl rs2 rs1 rd) = aq ∧ fieldFunct5 (amoWord f5 aq rl rs2 rs1 rd) = f5 := by
  simp (disch := decide) only [amoWord, fieldOpcode, fieldRd, fieldFunct3, fieldRs1, fieldRs2, fieldRl, fieldAq,
    fieldFunct5, extract_append_low, extract_append_high, Nat.reduceSub, extract_all, and_self]

@[simp] theorem fields_fenceWord (fm pred succ : BitVec 4) (rs1 rd : Reg) :
    fieldOpcode (fenceWord fm pred succ rs1 rd) = 0b0001111#7 ∧ fieldRd (fenceWord fm pred succ rs1 rd) = rd ∧
    fieldFunct3 (fenceWord fm pred succ rs1 rd) = 0b000#3 ∧ fieldRs1 (fenceWord fm pred succ rs1 rd) = rs1 ∧
    (fenceWord fm pred succ rs1 rd).extractLsb' 20 4 = succ ∧
    (fenceWord fm pred succ rs1 rd).extractLsb' 24 4 = pred ∧
    (fenceWord fm pred succ rs1 rd).extractLsb' 28 4 = fm := by
  simp (disch := decide) only [fenceWord, fieldOpcode, fieldRd, fieldFunct3, fieldRs1,
    extract_append_low, extract_append_high, Nat.reduceSub, extract_all, and_self]

/-! ## The 32-bit formats: a word from its fields -/

section
variable {w : Word} {f3 : BitVec 3} {f5 : BitVec 5} {f7 op : BitVec 7}

theorem rWord_of_fields (hf7 : fieldFunct7 w = f7) (hf3 : fieldFunct3 w = f3) (hop : fieldOpcode w = op) :
    rWord f7 (fieldRs2 w) (fieldRs1 w) f3 (fieldRd w) op = w := by
  subst hf7 hf3 hop
  simp (disch := decide) only [rWord, fieldOpcode, fieldRd, fieldFunct3, fieldRs1, fieldRs2, fieldFunct7,
    extract_join_at, extract_all]

theorem iWord_of_fields (hf3 : fieldFunct3 w = f3) (hop : fieldOpcode w = op) :
    iWord (fieldImmI w) (fieldRs1 w) f3 (fieldRd w) op = w := by
  subst hf3 hop
  simp (disch := decide) only [iWord, fieldOpcode, fieldRd, fieldFunct3, fieldRs1, fieldImmI,
    extract_join_at, extract_all]

theorem sWord_of_fields (hf3 : fieldFunct3 w = f3) (hop : fieldOpcode w = op) :
    sWord (fieldImmS w) (fieldRs2 w) (fieldRs1 w) f3 op = w := by
  subst hf3 hop
  simp (disch := decide) only [sWord, fieldOpcode, fieldFunct3, fieldRs1, fieldRs2, fieldImmS,
    extract_append_low, extract_append_high, Nat.reduceSub, extract_join_at, extract_all]

theorem bWord_of_fields (hf3 : fieldFunct3 w = f3) (hop : fieldOpcode w = op) :
    bWord (fieldOffB w) (fieldRs2 w) (fieldRs1 w) f3 op = w := by
  subst hf3 hop
  simp (disch := decide) only [bWord, fieldOpcode, fieldFunct3, fieldRs1, fieldRs2, fieldOffB,
    extract_append_low, extract_append_high, Nat.reduceSub, extract_join_at, extract_all]

theorem uWord_of_fields (hop : fieldOpcode w = op) : uWord (fieldImmU w) (fieldRd w) op = w := by
  subst hop
  simp (disch := decide) only [uWord, fieldOpcode, fieldRd, fieldImmU, extract_join_at, extract_all]

theorem jWord_of_fields (hop : fieldOpcode w = op) : jWord (fieldOffJ w) (fieldRd w) op = w := by
  subst hop
  simp (disch := decide) only [jWord, fieldOpcode, fieldRd, fieldOffJ,
    extract_append_low, extract_append_high, Nat.reduceSub, extract_join_at, extract_all]

theorem amoWord_of_fields {rs2 : Reg} (hf5 : fieldFunct5 w = f5) (hrs2 : fieldRs2 w = rs2)
    (hf3 : fieldFunct3 w = 0b010#3) (hop : fieldOpcode w = 0b0101111#7) :
    amoWord f5 (fieldAq w) (fieldRl w) rs2 (fieldRs1 w) (fieldRd w) = w := by
  subst hf5 hrs2
  rw [amoWord, ← hf3, ← hop]
  simp (disch := decide) only [fieldOpcode, fieldRd, fieldFunct3, fieldRs1, fieldRs2, fieldRl, fieldAq, fieldFunct5,
    extract_join_at, extract_all]

theorem fenceWord_of_fields (hf3 : fieldFunct3 w = 0b000#3) (hop : fieldOpcode w = 0b0001111#7) :
    fenceWord (w.extractLsb' 28 4) (w.extractLsb' 24 4) (w.extractLsb' 20 4) (fieldRs1 w) (fieldRd w) = w := by
  rw [fenceWord, ← hf3, ← hop]
  simp (disch := decide) only [fieldOpcode, fieldRd, fieldFunct3, fieldRs1, extract_join_at, extract_all]

end

/-! ## The 16-bit formats: the fields of each (R169, R170) -/

@[simp] theorem fields_ciwHalf (nz : BitVec 8) (rd : CReg) :
    (ciwHalf nz rd).extractLsb' 0 2 = 0b00#2 ∧ (ciwHalf nz rd).extractLsb' 13 3 = 0b000#3 ∧
    cfieldRd' (ciwHalf nz rd) = rd ∧ cfield4spn (ciwHalf nz rd) = nz := by
  simp (disch := decide) only [ciwHalf, cfieldRd', cfield4spn,
    extract_append_low, extract_append_high, Nat.reduceSub, extract_join_at, extract_all, and_self]

@[simp] theorem fields_clHalf (f3 : BitVec 3) (u : BitVec 5) (rs1 r : CReg) :
    (clHalf f3 u rs1 r).extractLsb' 0 2 = 0b00#2 ∧ (clHalf f3 u rs1 r).extractLsb' 13 3 = f3 ∧
    cfieldRd' (clHalf f3 u rs1 r) = r ∧ cfieldRs1' (clHalf f3 u rs1 r) = rs1 ∧
    cfieldLw (clHalf f3 u rs1 r) = u := by
  simp (disch := decide) only [clHalf, cfieldRd', cfieldRs1', cfieldLw,
    extract_append_low, extract_append_high, Nat.reduceSub, extract_join_at, extract_all, and_self]

@[simp] theorem fields_ciHalf (f3 : BitVec 3) (imm : BitVec 6) (rd : Reg) (op : BitVec 2) :
    (ciHalf f3 imm rd op).extractLsb' 0 2 = op ∧ (ciHalf f3 imm rd op).extractLsb' 13 3 = f3 ∧
    cfieldRd (ciHalf f3 imm rd op) = rd ∧ cfieldImm6 (ciHalf f3 imm rd op) = imm ∧
    cfieldBit12 (ciHalf f3 imm rd op) = imm.extractLsb' 5 1 ∧
    cfieldRs2 (ciHalf f3 imm rd op) = imm.extractLsb' 0 5 := by
  simp (disch := decide) only [ciHalf, cfieldRd, cfieldImm6, cfieldBit12, cfieldRs2,
    extract_append_low, extract_append_high, Nat.reduceSub, extract_join_at, extract_all, and_self]

@[simp] theorem fields_ci16spHalf (nz : BitVec 6) :
    (ci16spHalf nz).extractLsb' 0 2 = 0b01#2 ∧ (ci16spHalf nz).extractLsb' 13 3 = 0b011#3 ∧
    cfieldRd (ci16spHalf nz) = 2#5 ∧ cfield16sp (ci16spHalf nz) = nz := by
  simp (disch := decide) only [ci16spHalf, cfieldRd, cfield16sp,
    extract_append_low, extract_append_high, Nat.reduceSub, extract_join_at, extract_all, and_self]

@[simp] theorem fields_cjHalf (f3 : BitVec 3) (off : BitVec 11) :
    (cjHalf f3 off).extractLsb' 0 2 = 0b01#2 ∧ (cjHalf f3 off).extractLsb' 13 3 = f3 ∧
    cfieldJ (cjHalf f3 off) = off := by
  simp (disch := decide) only [cjHalf, cfieldJ,
    extract_append_low, extract_append_high, Nat.reduceSub, extract_join_at, extract_all, and_self]

@[simp] theorem fields_cbHalf (f3 : BitVec 3) (off : BitVec 8) (rs1 : CReg) :
    (cbHalf f3 off rs1).extractLsb' 0 2 = 0b01#2 ∧ (cbHalf f3 off rs1).extractLsb' 13 3 = f3 ∧
    cfieldRs1' (cbHalf f3 off rs1) = rs1 ∧ cfieldB (cbHalf f3 off rs1) = off := by
  simp (disch := decide) only [cbHalf, cfieldRs1', cfieldB,
    extract_append_low, extract_append_high, Nat.reduceSub, extract_join_at, extract_all, and_self]

@[simp] theorem fields_cbImmHalf (f2 : BitVec 2) (imm : BitVec 6) (rd : CReg) :
    (cbImmHalf f2 imm rd).extractLsb' 0 2 = 0b01#2 ∧ (cbImmHalf f2 imm rd).extractLsb' 13 3 = 0b100#3 ∧
    (cbImmHalf f2 imm rd).extractLsb' 10 2 = f2 ∧ cfieldRs1' (cbImmHalf f2 imm rd) = rd ∧
    cfieldImm6 (cbImmHalf f2 imm rd) = imm ∧ cfieldBit12 (cbImmHalf f2 imm rd) = imm.extractLsb' 5 1 ∧
    cfieldRs2 (cbImmHalf f2 imm rd) = imm.extractLsb' 0 5 := by
  simp (disch := decide) only [cbImmHalf, cfieldRs1', cfieldImm6, cfieldBit12, cfieldRs2,
    extract_append_low, extract_append_high, Nat.reduceSub, extract_join_at, extract_all, and_self]

/-- The six high bits 100011 are funct3 100, bit 12 clear and 11 in bits 11:10. -/
@[simp] theorem fields_caHalf (f2 : BitVec 2) (rd rs2 : CReg) :
    (caHalf f2 rd rs2).extractLsb' 0 2 = 0b01#2 ∧ (caHalf f2 rd rs2).extractLsb' 13 3 = 0b100#3 ∧
    (caHalf f2 rd rs2).extractLsb' 10 2 = 0b11#2 ∧ cfieldBit12 (caHalf f2 rd rs2) = 0#1 ∧
    (caHalf f2 rd rs2).extractLsb' 5 2 = f2 ∧ cfieldRs1' (caHalf f2 rd rs2) = rd ∧
    cfieldRd' (caHalf f2 rd rs2) = rs2 := by
  simp (disch := decide) only [caHalf, cfieldRs1', cfieldBit12, cfieldRd',
    extract_append_low, extract_append_high, Nat.reduceSub, extract_all, and_true, true_and]
  decide

@[simp] theorem fields_crHalf (f4 : BitVec 4) (rd rs2 : Reg) :
    (crHalf f4 rd rs2).extractLsb' 0 2 = 0b10#2 ∧ (crHalf f4 rd rs2).extractLsb' 13 3 = f4.extractLsb' 1 3 ∧
    cfieldBit12 (crHalf f4 rd rs2) = f4.extractLsb' 0 1 ∧ cfieldRd (crHalf f4 rd rs2) = rd ∧
    cfieldRs2 (crHalf f4 rd rs2) = rs2 := by
  simp (disch := decide) only [crHalf, cfieldBit12, cfieldRd, cfieldRs2,
    extract_append_low, extract_append_high, Nat.reduceSub, extract_all, and_self]

@[simp] theorem fields_lwspHalf (u : BitVec 6) (rd : Reg) :
    (lwspHalf u rd).extractLsb' 0 2 = 0b10#2 ∧ (lwspHalf u rd).extractLsb' 13 3 = 0b010#3 ∧
    cfieldRd (lwspHalf u rd) = rd ∧ cfieldLwsp (lwspHalf u rd) = u := by
  simp (disch := decide) only [lwspHalf, cfieldRd, cfieldLwsp,
    extract_append_low, extract_append_high, Nat.reduceSub, extract_join_at, extract_all, and_self]

@[simp] theorem fields_swspHalf (u : BitVec 6) (rs2 : Reg) :
    (swspHalf u rs2).extractLsb' 0 2 = 0b10#2 ∧ (swspHalf u rs2).extractLsb' 13 3 = 0b110#3 ∧
    cfieldRs2 (swspHalf u rs2) = rs2 ∧ cfieldSwsp (swspHalf u rs2) = u := by
  simp (disch := decide) only [swspHalf, cfieldRs2, cfieldSwsp,
    extract_append_low, extract_append_high, Nat.reduceSub, extract_join_at, extract_all, and_self]

/-- A shift amount as a 6-bit immediate: its top bit is clear (R175). -/
@[simp] theorem fields_shamt (sh : BitVec 5) :
    (0b0#1 ++ sh).extractLsb' 5 1 = 0b0#1 ∧ (0b0#1 ++ sh).extractLsb' 0 5 = sh := by
  simp (disch := decide) only [extract_append_low, extract_append_high, Nat.reduceSub, extract_all, and_self]

/-! ## The 16-bit formats: a parcel from its fields -/

section
variable {h : Half} {f2 q : BitVec 2} {f3 : BitVec 3}

theorem ciwHalf_of_fields (hf : h.extractLsb' 13 3 = 0b000#3) (hq : h.extractLsb' 0 2 = 0b00#2) :
    ciwHalf (cfield4spn h) (cfieldRd' h) = h := by
  rw [ciwHalf, ← hf, ← hq]
  simp (disch := decide) only [cfieldRd', cfield4spn,
    extract_append_low, extract_append_high, Nat.reduceSub, extract_join_at, extract_all]

theorem clHalf_of_fields (hf : h.extractLsb' 13 3 = f3) (hq : h.extractLsb' 0 2 = 0b00#2) :
    clHalf f3 (cfieldLw h) (cfieldRs1' h) (cfieldRd' h) = h := by
  rw [clHalf, ← hf, ← hq]
  simp (disch := decide) only [cfieldRd', cfieldRs1', cfieldLw,
    extract_append_low, extract_append_high, Nat.reduceSub, extract_join_at, extract_all]

theorem ciHalf_of_fields {rd : Reg} (hf : h.extractLsb' 13 3 = f3) (hrd : cfieldRd h = rd)
    (hq : h.extractLsb' 0 2 = q) : ciHalf f3 (cfieldImm6 h) rd q = h := by
  rw [ciHalf, ← hf, ← hrd, ← hq]
  simp (disch := decide) only [cfieldRd, cfieldImm6,
    extract_append_low, extract_append_high, Nat.reduceSub, extract_join_at, extract_all]

theorem ci16spHalf_of_fields (hf : h.extractLsb' 13 3 = 0b011#3) (hrd : cfieldRd h = 2#5)
    (hq : h.extractLsb' 0 2 = 0b01#2) : ci16spHalf (cfield16sp h) = h := by
  rw [ci16spHalf, ← hf, ← hrd, ← hq]
  simp (disch := decide) only [cfieldRd, cfield16sp,
    extract_append_low, extract_append_high, Nat.reduceSub, extract_join_at, extract_all]

theorem cjHalf_of_fields (hf : h.extractLsb' 13 3 = f3) (hq : h.extractLsb' 0 2 = 0b01#2) :
    cjHalf f3 (cfieldJ h) = h := by
  rw [cjHalf, ← hf, ← hq]
  simp (disch := decide) only [cfieldJ,
    extract_append_low, extract_append_high, Nat.reduceSub, extract_join_at, extract_all]

theorem cbHalf_of_fields (hf : h.extractLsb' 13 3 = f3) (hq : h.extractLsb' 0 2 = 0b01#2) :
    cbHalf f3 (cfieldB h) (cfieldRs1' h) = h := by
  rw [cbHalf, ← hf, ← hq]
  simp (disch := decide) only [cfieldRs1', cfieldB,
    extract_append_low, extract_append_high, Nat.reduceSub, extract_join_at, extract_all]

theorem cbImmHalf_of_fields (hf : h.extractLsb' 13 3 = 0b100#3) (hf2 : h.extractLsb' 10 2 = f2)
    (hq : h.extractLsb' 0 2 = 0b01#2) : cbImmHalf f2 (cfieldImm6 h) (cfieldRs1' h) = h := by
  rw [cbImmHalf, ← hf, ← hf2, ← hq]
  simp (disch := decide) only [cfieldRs1', cfieldImm6,
    extract_append_low, extract_append_high, Nat.reduceSub, extract_join_at, extract_all]

theorem caHalf_of_fields (hf : h.extractLsb' 13 3 = 0b100#3) (h12 : cfieldBit12 h = 0#1)
    (h10 : h.extractLsb' 10 2 = 0b11#2) (hf2 : h.extractLsb' 5 2 = f2) (hq : h.extractLsb' 0 2 = 0b01#2) :
    caHalf f2 (cfieldRs1' h) (cfieldRd' h) = h := by
  rw [caHalf, show 0b100011#6 = 0b100#3 ++ 0#1 ++ 0b11#2 from rfl, ← hf, ← h12, ← h10, ← hf2, ← hq]
  simp (disch := decide) only [cfieldBit12, cfieldRs1', cfieldRd', extract_join_at, extract_all]

theorem crHalf_of_fields {f4 : BitVec 4} {rs2 : Reg} (hf : h.extractLsb' 13 3 = 0b100#3)
    (hf4 : 0b100#3 ++ cfieldBit12 h = f4) (hrs2 : cfieldRs2 h = rs2) (hq : h.extractLsb' 0 2 = 0b10#2) :
    crHalf f4 (cfieldRd h) rs2 = h := by
  rw [crHalf, ← hf4, ← hf, ← hrs2, ← hq]
  simp (disch := decide) only [cfieldBit12, cfieldRd, cfieldRs2, extract_join_at, extract_all]

theorem lwspHalf_of_fields (hf : h.extractLsb' 13 3 = 0b010#3) (hq : h.extractLsb' 0 2 = 0b10#2) :
    lwspHalf (cfieldLwsp h) (cfieldRd h) = h := by
  rw [lwspHalf, ← hf, ← hq]
  simp (disch := decide) only [cfieldRd, cfieldLwsp,
    extract_append_low, extract_append_high, Nat.reduceSub, extract_join_at, extract_all]

theorem swspHalf_of_fields (hf : h.extractLsb' 13 3 = 0b110#3) (hq : h.extractLsb' 0 2 = 0b10#2) :
    swspHalf (cfieldSwsp h) (cfieldRs2 h) = h := by
  rw [swspHalf, ← hf, ← hq]
  simp (disch := decide) only [cfieldRs2, cfieldSwsp,
    extract_append_low, extract_append_high, Nat.reduceSub, extract_join_at, extract_all]

/-- A shift amount is the 6-bit immediate whose top bit is clear (R175). -/
theorem shamt_of_bit12 (h12 : cfieldBit12 h = 0#1) : 0b0#1 ++ cfieldRs2 h = cfieldImm6 h := by
  rw [← h12]; rfl

end

/-! ## Decoding gives back what was encoded -/

/-- By the `fields_` lemmas an encoded instruction has the opcode or quadrant, the functs and the operands that its format
put there, so the decoder reaches its row; the constraints of R173 rule out the reserved encodings on the way. -/
theorem decodeCode_encode {i : Instr} (wf : i.wellFormed = true) : decodeCode (encode i) = some i := by
  cases i with
  | lui | auipc | jal | jalr => simp [encode, decodeCode, decode32]
  | beq | bne | blt | bge | bltu | bgeu => simp [encode, decodeCode, decode32, decodeBranch]
  | lb | lh | lw | lbu | lhu => simp [encode, decodeCode, decode32, decodeLoad]
  | sb | sh | sw => simp [encode, decodeCode, decode32, decodeStore]
  | addi | slti | sltiu | xori | ori | andi | slli | srli | srai => simp [encode, decodeCode, decode32, decodeOpImm]
  | add | sub | sll | slt | sltu | xor | srl | sra | or | and | mul | mulh | mulhsu | mulhu | div | divu | rem | remu =>
    simp [encode, decodeCode, decode32, decodeOp]
  | fence | fenceI => simp [encode, decodeCode, decode32, decodeMiscMem]
  | ecall | ebreak | mret | wfi | cEbreak => rfl
  | csrrw | csrrs | csrrc | csrrwi | csrrsi | csrrci => simp [encode, decodeCode, decode32, decodeSystem]
  | lrW | scW | amoswapW | amoaddW | amoxorW | amoandW | amoorW | amominW | amomaxW | amominuW | amomaxuW =>
    simp [encode, decodeCode, decode32, decodeAmo]
  | cLw | cSw => simp [encode, decodeCode, isWide, decode16, decodeQ0]
  | cAddi4spn =>
    simp only [Instr.wellFormed, bne_iff_ne] at wf
    simp [encode, decodeCode, isWide, decode16, decodeQ0, wf]
  | cNop | cJal | cLi | cJ | cBeqz | cBnez => simp [encode, decodeCode, isWide, decode16, decodeQ1]
  | cAddi | cAddi16sp =>
    simp only [Instr.wellFormed, bne_iff_ne] at wf
    simp [encode, decodeCode, isWide, decode16, decodeQ1, wf]
  | cLui =>
    simp only [Instr.wellFormed, Bool.and_eq_true, bne_iff_ne] at wf
    simp [encode, decodeCode, isWide, decode16, decodeQ1, wf]
  | cSrli | cSrai | cAndi | cSub | cXor | cOr | cAnd =>
    simp [encode, decodeCode, isWide, decode16, decodeQ1, decodeCMisc]
  | cSlli | cSwsp => simp [encode, decodeCode, isWide, decode16, decodeQ2]
  | cLwsp =>
    simp only [Instr.wellFormed, bne_iff_ne] at wf
    simp [encode, decodeCode, isWide, decode16, decodeQ2, wf]
  | cJr | cMv | cJalr | cAdd =>
    simp only [Instr.wellFormed, bne_iff_ne] at wf
    simp [encode, decodeCode, isWide, decode16, decodeQ2, decodeCReg, wf]

/-! ## Nothing but encodings is decoded -/

/-- `i` meets the constraints of its row, and `c` is its word or parcel. -/
def Encodes (i : Instr) (c : Code) : Prop := i.wellFormed = true ∧ encode i = c

section
variable {w : Word} {i : Instr}

theorem encodes_of_decodeBranch (hop : fieldOpcode w = 0b1100011#7) (hi : decodeBranch w = some i) :
    Encodes i (.word w) := by
  unfold decodeBranch at hi
  split at hi <;> cases hi
  all_goals exact ⟨rfl, congrArg Code.word (bWord_of_fields ‹_› hop)⟩

theorem encodes_of_decodeLoad (hop : fieldOpcode w = 0b0000011#7) (hi : decodeLoad w = some i) :
    Encodes i (.word w) := by
  unfold decodeLoad at hi
  split at hi <;> cases hi
  all_goals exact ⟨rfl, congrArg Code.word (iWord_of_fields ‹_› hop)⟩

theorem encodes_of_decodeStore (hop : fieldOpcode w = 0b0100011#7) (hi : decodeStore w = some i) :
    Encodes i (.word w) := by
  unfold decodeStore at hi
  split at hi <;> cases hi
  all_goals exact ⟨rfl, congrArg Code.word (sWord_of_fields ‹_› hop)⟩

/-- The row of `srli` and `srai` is the one the decoder reaches when funct3 is none of the other seven. -/
theorem encodes_of_decodeOpImm (hop : fieldOpcode w = 0b0010011#7) (hi : decodeOpImm w = some i) :
    Encodes i (.word w) := by
  unfold decodeOpImm at hi
  split at hi
  case h_7 =>
    split at hi <;> cases hi
    exact ⟨rfl, congrArg Code.word (rWord_of_fields ‹_› ‹_› hop)⟩
  case h_8 =>
    have hf3 : fieldFunct3 w = 0b101#3 := by simp only [imp_false] at *; bv_omega
    split at hi <;> cases hi
    all_goals exact ⟨rfl, congrArg Code.word (rWord_of_fields ‹_› hf3 hop)⟩
  all_goals
    cases hi
    exact ⟨rfl, congrArg Code.word (iWord_of_fields ‹_› hop)⟩

theorem encodes_of_decodeOp (hop : fieldOpcode w = 0b0110011#7) (hi : decodeOp w = some i) :
    Encodes i (.word w) := by
  unfold decodeOp at hi
  split at hi <;> cases hi
  all_goals exact ⟨rfl, congrArg Code.word (rWord_of_fields ‹_› ‹_› hop)⟩

theorem encodes_of_decodeMiscMem (hop : fieldOpcode w = 0b0001111#7) (hi : decodeMiscMem w = some i) :
    Encodes i (.word w) := by
  unfold decodeMiscMem at hi
  split at hi <;> cases hi
  · exact ⟨rfl, congrArg Code.word (fenceWord_of_fields ‹_› hop)⟩
  · exact ⟨rfl, congrArg Code.word (iWord_of_fields ‹_› hop)⟩

theorem encodes_of_decodeSystem (hop : fieldOpcode w = 0b1110011#7) (hi : decodeSystem w = some i) :
    Encodes i (.word w) := by
  unfold decodeSystem at hi
  split at hi
  case h_1 =>
    split_ifs at hi with hw hw hw hw
    all_goals
      cases hi
      exact ⟨rfl, congrArg Code.word hw.symm⟩
  case h_8 => cases hi
  all_goals
    cases hi
    exact ⟨rfl, congrArg Code.word (iWord_of_fields ‹_› hop)⟩

theorem encodes_of_decodeAmo (hop : fieldOpcode w = 0b0101111#7) (hi : decodeAmo w = some i) :
    Encodes i (.word w) := by
  unfold decodeAmo at hi
  split at hi
  · split at hi
    case h_1 =>
      split_ifs at hi with hrs2
      cases hi
      exact ⟨rfl, congrArg Code.word (amoWord_of_fields ‹_› hrs2 ‹_› hop)⟩
    all_goals cases hi
    all_goals exact ⟨rfl, congrArg Code.word (amoWord_of_fields ‹_› rfl ‹_› hop)⟩
  · cases hi

theorem encodes_of_decode32 (hi : decode32 w = some i) : Encodes i (.word w) := by
  unfold decode32 at hi
  split at hi
  · cases hi
    exact ⟨rfl, congrArg Code.word (uWord_of_fields ‹_›)⟩
  · cases hi
    exact ⟨rfl, congrArg Code.word (uWord_of_fields ‹_›)⟩
  · cases hi
    exact ⟨rfl, congrArg Code.word (jWord_of_fields ‹_›)⟩
  · split at hi <;> cases hi
    exact ⟨rfl, congrArg Code.word (iWord_of_fields ‹_› ‹_›)⟩
  · exact encodes_of_decodeBranch ‹_› hi
  · exact encodes_of_decodeLoad ‹_› hi
  · exact encodes_of_decodeStore ‹_› hi
  · exact encodes_of_decodeOpImm ‹_› hi
  · exact encodes_of_decodeOp ‹_› hi
  · exact encodes_of_decodeMiscMem ‹_› hi
  · exact encodes_of_decodeSystem ‹_› hi
  · exact encodes_of_decodeAmo ‹_› hi
  · cases hi

end

section
variable {h : Half} {i : Instr}

theorem encodes_of_decodeQ0 (hq : h.extractLsb' 0 2 = 0b00#2) (hi : decodeQ0 h = some i) : Encodes i (.half h) := by
  unfold decodeQ0 at hi
  split at hi
  case h_1 hf =>
    split_ifs at hi with hnz
    cases hi
    exact ⟨bne_iff_ne.mpr hnz, congrArg Code.half (ciwHalf_of_fields hf hq)⟩
  case h_4 => cases hi
  all_goals
    cases hi
    exact ⟨rfl, congrArg Code.half (clHalf_of_fields ‹_› hq)⟩

theorem bit12_set (h12 : ¬ cfieldBit12 h = 0#1) : cfieldBit12 h = 1#1 := by bv_omega

theorem bit12_clear (h12 : ¬ cfieldBit12 h = 1#1) : cfieldBit12 h = 0#1 := by bv_omega

/-- The shifts are the immediate rows whose bit 12 must be clear; the four register rows share bits 11:10. -/
theorem encodes_of_decodeCMisc (hq : h.extractLsb' 0 2 = 0b01#2) (hf : h.extractLsb' 13 3 = 0b100#3)
    (hi : decodeCMisc h = some i) : Encodes i (.half h) := by
  have shift {f2 : BitVec 2} (h12 : ¬ cfieldBit12 h = 1#1) (hf2 : h.extractLsb' 10 2 = f2) :
      Code.half (cbImmHalf f2 (0b0#1 ++ cfieldRs2 h) (cfieldRs1' h)) = .half h := by
    rw [shamt_of_bit12 (bit12_clear h12), cbImmHalf_of_fields hf hf2 hq]
  unfold decodeCMisc at hi
  split at hi
  case h_1 hf2 | h_2 hf2 =>
    split_ifs at hi with h12
    cases hi
    exact ⟨rfl, shift h12 hf2⟩
  case h_3 hf2 =>
    cases hi
    exact ⟨rfl, congrArg Code.half (cbImmHalf_of_fields hf hf2 hq)⟩
  case h_4 =>
    have h10 : h.extractLsb' 10 2 = 0b11#2 := by simp only [imp_false] at *; bv_omega
    split_ifs at hi with h12
    have register {f2 : BitVec 2} (hf2 : h.extractLsb' 5 2 = f2) :
        Code.half (caHalf f2 (cfieldRs1' h) (cfieldRd' h)) = .half h :=
      congrArg Code.half (caHalf_of_fields hf (bit12_clear h12) h10 hf2 hq)
    split at hi
    case h_4 =>
      cases hi
      exact ⟨rfl, register (by simp only [imp_false] at *; bv_omega)⟩
    all_goals
      cases hi
      exact ⟨rfl, register ‹_›⟩

theorem encodes_of_decodeQ1 (hq : h.extractLsb' 0 2 = 0b01#2) (hi : decodeQ1 h = some i) : Encodes i (.half h) := by
  unfold decodeQ1 at hi
  split at hi
  case h_1 hf =>
    split_ifs at hi with hrd
    · cases hi
      exact ⟨rfl, congrArg Code.half (ciHalf_of_fields hf hrd hq)⟩
    · cases hi
      exact ⟨bne_iff_ne.mpr hrd, congrArg Code.half (ciHalf_of_fields hf rfl hq)⟩
  case h_2 hf | h_6 hf =>
    cases hi
    exact ⟨rfl, congrArg Code.half (cjHalf_of_fields hf hq)⟩
  case h_3 hf =>
    cases hi
    exact ⟨rfl, congrArg Code.half (ciHalf_of_fields hf rfl hq)⟩
  case h_4 hf =>
    split_ifs at hi with hrd hnz hnz
    · cases hi
      exact ⟨bne_iff_ne.mpr hnz, congrArg Code.half (ci16spHalf_of_fields hf hrd hq)⟩
    · cases hi
      exact ⟨Bool.and_eq_true_iff.mpr ⟨bne_iff_ne.mpr hrd, bne_iff_ne.mpr hnz⟩,
        congrArg Code.half (ciHalf_of_fields hf rfl hq)⟩
  case h_5 hf => exact encodes_of_decodeCMisc hq hf hi
  case h_7 hf =>
    cases hi
    exact ⟨rfl, congrArg Code.half (cbHalf_of_fields hf hq)⟩
  case h_8 =>
    have hf : h.extractLsb' 13 3 = 0b111#3 := by simp only [imp_false] at *; bv_omega
    cases hi
    exact ⟨rfl, congrArg Code.half (cbHalf_of_fields hf hq)⟩

theorem encodes_of_decodeCReg (hq : h.extractLsb' 0 2 = 0b10#2) (hf : h.extractLsb' 13 3 = 0b100#3)
    (hi : decodeCReg h = some i) : Encodes i (.half h) := by
  unfold decodeCReg at hi
  split_ifs at hi with h12 hrs2 hrd hrs2 hrd <;> cases hi
  · exact ⟨bne_iff_ne.mpr hrd, congrArg Code.half (crHalf_of_fields hf (by rw [h12]; rfl) hrs2 hq)⟩
  · exact ⟨bne_iff_ne.mpr hrs2, congrArg Code.half (crHalf_of_fields hf (by rw [h12]; rfl) rfl hq)⟩
  all_goals have hf4 : 0b100#3 ++ cfieldBit12 h = 0b1001#4 := by rw [bit12_set h12]; rfl
  · refine ⟨rfl, congrArg Code.half ?_⟩
    rw [← crHalf_of_fields hf hf4 hrs2 hq, hrd]
    rfl
  · exact ⟨bne_iff_ne.mpr hrd, congrArg Code.half (crHalf_of_fields hf hf4 hrs2 hq)⟩
  · exact ⟨bne_iff_ne.mpr hrs2, congrArg Code.half (crHalf_of_fields hf hf4 rfl hq)⟩

theorem encodes_of_decodeQ2 (hq : h.extractLsb' 0 2 = 0b10#2) (hi : decodeQ2 h = some i) : Encodes i (.half h) := by
  unfold decodeQ2 at hi
  split at hi
  case h_1 hf =>
    split_ifs at hi with h12
    cases hi
    refine ⟨rfl, congrArg Code.half ?_⟩
    rw [shamt_of_bit12 (bit12_clear h12), ciHalf_of_fields hf rfl hq]
  case h_2 hf =>
    split_ifs at hi with hrd
    cases hi
    exact ⟨bne_iff_ne.mpr hrd, congrArg Code.half (lwspHalf_of_fields hf hq)⟩
  case h_3 hf => exact encodes_of_decodeCReg hq hf hi
  case h_4 hf =>
    cases hi
    exact ⟨rfl, congrArg Code.half (swspHalf_of_fields hf hq)⟩
  case h_5 => cases hi

theorem encodes_of_decode16 (hi : decode16 h = some i) : Encodes i (.half h) := by
  unfold decode16 at hi
  split at hi
  · exact encodes_of_decodeQ0 ‹_› hi
  · exact encodes_of_decodeQ1 ‹_› hi
  · exact encodes_of_decodeQ2 ‹_› hi
  · cases hi

end

/-- The decoder accepts a word or parcel exactly if it encodes a well-formed instruction, and answers that one. -/
theorem decodeCode_eq_some_iff {c : Code} {i : Instr} : decodeCode c = some i ↔ Encodes i c := by
  constructor
  · intro hi
    cases c with
    | word w => exact encodes_of_decode32 hi
    | half h =>
      rw [decodeCode] at hi
      split_ifs at hi
      exact encodes_of_decode16 hi
  · rintro ⟨wf, rfl⟩
    exact decodeCode_encode wf

/-! ## Words and parcels as bytes (R123, R161) -/

theorem word_of_four_bytes (w : Word) :
    w.extractLsb' 24 8 ++ w.extractLsb' 16 8 ++ w.extractLsb' 8 8 ++ w.extractLsb' 0 8 = w := by
  simp (disch := decide) only [extract_join_at, extract_all]

theorem bytes_word_append (b0 b1 b2 b3 : Byte) : (Code.word (b3 ++ b2 ++ b1 ++ b0)).bytes = [b0, b1, b2, b3] := by
  simp (disch := decide) only [Code.bytes, extract_append_low, extract_append_high, Nat.reduceSub, extract_all]

theorem bytes_half_append (b0 b1 : Byte) : (Code.half (b1 ++ b0)).bytes = [b0, b1] := by
  simp (disch := decide) only [Code.bytes, extract_append_low, extract_append_high, Nat.reduceSub, extract_all]

/-- The opcode of a word decides its length. -/
theorem isWide_low_parcel (w : Word) :
    isWide (w.extractLsb' 8 8 ++ w.extractLsb' 0 8) = ((fieldOpcode w).extractLsb' 0 2 == 0b11#2) := by
  simp (disch := decide) only [isWide, fieldOpcode, extract_append_low, BitVec.extractLsb'_extractLsb'_of_le]

/-- The first parcel of a word that is an instruction announces 32 bits: every opcode of R166 ends in 11. -/
theorem isWide_of_decode32 {w : Word} {i : Instr} (hi : decode32 w = some i) :
    isWide (w.extractLsb' 8 8 ++ w.extractLsb' 0 8) = true := by
  rw [isWide_low_parcel]
  unfold decode32 at hi
  split at hi
  case h_13 => cases hi
  all_goals
    rw [‹fieldOpcode w = _›]
    rfl

/-- What `decode` accepts begins with the bytes of a word or parcel that `decodeCode` accepts. -/
theorem exists_code_of_decode {bs rest : List Byte} {i : Instr} (hd : decode bs = .ok (i, rest)) :
    ∃ c, decodeCode c = some i ∧ bs = c.bytes ++ rest := by
  unfold decode at hd
  split at hd
  next b0 b1 tail =>
    split_ifs at hd with wide
    · split at hd
      next b2 b3 tail =>
        split at hd <;> cases hd
        exact ⟨.word (b3 ++ b2 ++ b1 ++ b0), ‹_›, by rw [bytes_word_append]; rfl⟩
      next => cases hd
    · split at hd <;> cases hd
      exact ⟨.half (b1 ++ b0), by rwa [decodeCode, if_neg wide], by rw [bytes_half_append]; rfl⟩
  next => cases hd

/-- The bytes of a word or parcel that `decodeCode` accepts are accepted, and what follows them is left over. -/
theorem decode_bytes_append {c : Code} {i : Instr} (hc : decodeCode c = some i) (rest : List Byte) :
    decode (c.bytes ++ rest) = .ok (i, rest) := by
  cases c with
  | word w =>
    have hi : decode32 w = some i := hc
    simp only [Code.bytes, List.cons_append, List.nil_append, decode, isWide_of_decode32 hi, if_true,
      word_of_four_bytes, hi]
  | half h =>
    rw [decodeCode] at hc
    split_ifs at hc with narrow
    simp only [Code.bytes, List.cons_append, List.nil_append, decode, half_of_bytes, narrow, hc]
    rfl

/-! ## The obligations -/

/-- Settles O7: the decoder accepts the word or parcel of a well-formed instruction, hence its bytes. -/
theorem decodeEncode : Obligations.DecodeEncode := by
  intro i rest wf
  exact decode_bytes_append (decodeCode_eq_some_iff.mpr ⟨wf, rfl⟩) rest

/-- Settles O8: accepted bytes begin with an accepted word or parcel, which is an encoding. -/
theorem encodeDecode : Obligations.EncodeDecode := by
  intro bs rest i accepted
  obtain ⟨c, hc, rfl⟩ := exists_code_of_decode accepted
  obtain ⟨wf, rfl⟩ := decodeCode_eq_some_iff.mp hc
  exact ⟨wf, rfl⟩

end Sys2Proof
end

section
/-! PROOFS. The 21 integer computational instructions (spec/40_rv32i_integer.md R200 to R222), and the words and parcels
that spec/ writes out. Every such instruction writes one result and completes; what is left is that the model's result is
the rule's, which takes a lemma only for the comparisons and the register shifts. -/

namespace Sys2Proof.Machine

/-! ## Results -/

theorem boolWord_ltSigned (a b : Word) : boolWord (ltSigned a b) = if a.toInt < b.toInt then 1#32 else 0#32 := by
  simp [boolWord, ltSigned, BitVec.slt]

theorem boolWord_ltUnsigned (a b : Word) : boolWord (ltUnsigned a b) = if a.toNat < b.toNat then 1#32 else 0#32 := by
  simp [boolWord, ltUnsigned, BitVec.ult]

/-- Sign extension keeps the signed value of an immediate. -/
theorem toInt_immI (imm : BitVec 12) : (immI imm).toInt = imm.toInt :=
  BitVec.toInt_signExtend_of_le (by decide)

/-- The low five bits are the remainder modulo 32. -/
theorem shiftAmount_eq_mod (v : Word) : shiftAmount v = v.toNat % 32 := by
  simp [shiftAmount, BitVec.extractLsb'_toNat]

/-! ## The instructions -/

/-- An instruction whose meaning is to write `w` to `rd` and complete computes `w`, in whatever terms `v` that is said. -/
theorem runsTo_of_retireWrite {i : Instr} {s : State} {rd : Reg} {w v len : Word}
    (hx : exec i s = retireWrite rd w len s) (hw : w = v) :
    RunsTo i s (fun t => Computes s t rd v (s.pc + len)) := by
  obtain ⟨t, ht, computes⟩ := retireWrite_computes rd w len s
  exact ⟨t, hx.trans ht, hw ▸ computes⟩

/-- Settles O24: the results are the model's own terms, but for the two comparisons. -/
theorem integerImmediateResults : Obligations.IntegerImmediateResults := by
  rintro s rd rs1 imm imm20 sh _ rfl
  have signedLess : boolWord (ltSigned (readReg s rs1) (immI imm)) =
      if (readReg s rs1).toInt < imm.toInt then 1#32 else 0#32 := by rw [boolWord_ltSigned, toInt_immI]
  have unsignedLess := boolWord_ltUnsigned (readReg s rs1) (immI imm)
  exact ⟨runsTo_of_retireWrite rfl rfl, runsTo_of_retireWrite rfl rfl, runsTo_of_retireWrite rfl rfl,
    runsTo_of_retireWrite rfl signedLess, runsTo_of_retireWrite rfl unsignedLess,
    runsTo_of_retireWrite rfl rfl, runsTo_of_retireWrite rfl rfl, runsTo_of_retireWrite rfl rfl,
    runsTo_of_retireWrite rfl rfl, runsTo_of_retireWrite rfl rfl, runsTo_of_retireWrite rfl rfl⟩

/-- Settles O25: the results are the model's own terms, but for the comparisons and the shifts, whose amount is the low
five bits of `x[rs2]`. -/
theorem integerRegisterResults : Obligations.IntegerRegisterResults := by
  rintro s rd rs1 rs2 _ _ _ rfl rfl rfl
  have signedLess := boolWord_ltSigned (readReg s rs1) (readReg s rs2)
  have unsignedLess := boolWord_ltUnsigned (readReg s rs1) (readReg s rs2)
  have amount := shiftAmount_eq_mod (readReg s rs2)
  exact ⟨runsTo_of_retireWrite rfl rfl, runsTo_of_retireWrite rfl rfl,
    runsTo_of_retireWrite rfl (by rw [amount]),
    runsTo_of_retireWrite rfl signedLess, runsTo_of_retireWrite rfl unsignedLess, runsTo_of_retireWrite rfl rfl,
    runsTo_of_retireWrite rfl (by rw [amount]), runsTo_of_retireWrite rfl (by rw [amount]),
    runsTo_of_retireWrite rfl rfl, runsTo_of_retireWrite rfl rfl⟩

end Sys2Proof.Machine

namespace Sys2Proof

/-! ## Words the spec writes out -/

theorem decode32_of_encode {i : Instr} {w : Word} (wf : i.wellFormed = true) (he : encode i = .word w) :
    decode32 w = some i :=
  decodeCode_eq_some_iff (c := .word w).mpr ⟨wf, he⟩

theorem decode16_of_encode {i : Instr} {h : Half} (wf : i.wellFormed = true) (he : encode i = .half h) :
    decode16 h = some i := by
  have hd : decodeCode (.half h) = some i := decodeCode_eq_some_iff.mpr ⟨wf, he⟩
  rw [decodeCode] at hd
  split_ifs at hd
  exact hd

/-- Settles O9: each word or parcel is the encoding of its instruction, so the decoder answers that one; 0x0000, with the
pattern of `c.addi4spn`, is refused for its immediate 0 (R175). -/
theorem wordsDecode : Obligations.WordsDecode :=
  ⟨decode32_of_encode rfl (by decide), decode32_of_encode rfl rfl, decode32_of_encode rfl rfl,
    decode32_of_encode rfl rfl, decode32_of_encode rfl rfl, decode32_of_encode rfl (by decide),
    decode16_of_encode rfl (by decide), decode16_of_encode rfl rfl, by decide⟩

end Sys2Proof
end

section
/-! PROOFS. The eight control transfer instructions (spec/41_rv32i_control.md R240 to R249). `branchOp_computes` and
`jumpOp_computes` say what a branch and a jump do; what is left is that the condition a branch tests is the comparison its
rule names, and that the target of `jalr` is the sum with bit 0 clear. -/

namespace Sys2Proof.Machine

/-! ## Conditions (R9, R25) -/

theorem ltSigned_iff (a b : Word) : ltSigned a b = true ↔ a.toInt < b.toInt := BitVec.slt_iff_toInt_lt

theorem ltUnsigned_iff (a b : Word) : ltUnsigned a b = true ↔ a.toNat < b.toNat := BitVec.ult_iff_lt

theorem geSigned_iff (a b : Word) : geSigned a b = true ↔ ¬ a.toInt < b.toInt := by
  rw [← ltSigned_iff, geSigned, ltSigned, Bool.not_eq_true', Bool.not_eq_true]

theorem geUnsigned_iff (a b : Word) : geUnsigned a b = true ↔ ¬ a.toNat < b.toNat := by
  rw [← ltUnsigned_iff, geUnsigned, ltUnsigned, Bool.not_eq_true', Bool.not_eq_true]

/-! ## Branches and jumps -/

section
variable {i : Instr} {s : State} {c : Bool} {off len : Word} {p : Prop} [Decidable p]

/-- A branch on `p` goes to its target if `p` holds, else on to the next instruction. -/
theorem runsTo_of_branchOp (hx : exec i s = branchOp c off len s) (hc : c = true ↔ p) :
    RunsTo i s (fun t => Computes s t 0#5 0#32 (if p then s.pc + off else s.pc + len)) := by
  obtain ⟨t, ht, computes⟩ := branchOp_computes c off len s
  simp only [hc] at computes
  exact ⟨t, hx.trans ht, computes⟩

/-- A branch on the negation of `p` goes on to the next instruction if `p` holds, else to its target. -/
theorem runsTo_of_branchOp_not (hx : exec i s = branchOp c off len s) (hc : c = true ↔ ¬ p) :
    RunsTo i s (fun t => Computes s t 0#5 0#32 (if p then s.pc + len else s.pc + off)) := by
  simpa only [ite_not] using runsTo_of_branchOp hx hc

end

/-- A jump to `w` links and goes there, in whatever terms `target` that is said. -/
theorem runsTo_of_jumpOp {i : Instr} {s : State} {rd : Reg} {w target len : Word}
    (hx : exec i s = jumpOp rd w len s) (hw : w = target) :
    RunsTo i s (fun t => Computes s t rd (s.pc + len) target) := by
  obtain ⟨t, ht, computes⟩ := jumpOp_computes rd w len s
  exact ⟨t, hx.trans ht, hw ▸ computes⟩

/-- Settles O28: `beq`, `blt` and `bltu` branch on the comparison, `bne`, `bge` and `bgeu` on its negation. -/
theorem branchResults : Obligations.BranchResults := by
  rintro s rs1 rs2 off _ _ _ _ rfl rfl rfl rfl
  exact ⟨runsTo_of_branchOp rfl beq_iff_eq, runsTo_of_branchOp_not rfl bne_iff_ne,
    runsTo_of_branchOp rfl (ltSigned_iff _ _), runsTo_of_branchOp_not rfl (geSigned_iff _ _),
    runsTo_of_branchOp rfl (ltUnsigned_iff _ _), runsTo_of_branchOp_not rfl (geUnsigned_iff _ _)⟩

/-- Settles O29: both are jumps with the link `pc + 4`; `jalr` clears bit 0 of the sum. -/
theorem jumpResults : Obligations.JumpResults := fun _ _ _ _ _ =>
  ⟨runsTo_of_jumpOp rfl rfl, runsTo_of_jumpOp rfl (clearBit0_eq _)⟩

end Sys2Proof.Machine
end

section
/-! PROOFS. System and CSR instructions (spec/43_system_csr.md R280 to R311): environment calls, the return from a trap,
`wfi`, the six CSR instructions on register CSRs, and the operation CSRs. On a register CSR an instruction that only
reads is a register write like any other; one that writes leaves the state that `csrWrite_countedFor_eq` writes out. On
an operation CSR each described form runs one operation, and what a claim changes is said once, for `mnxti` and
`jalmnxti`. -/

namespace Sys2Proof.Machine

/-! ## Environment calls -/

/-- The code of an environment call names the mode it comes from (R281). -/
theorem environmentCall_takes (s : State) :
    TakesException s (environmentCall s) (if s.priv = .U then 8#12 else 11#12) (freeWord s) := by
  unfold environmentCall
  cases s.priv <;> exact exceptionEntry_drawn_takes _ _ s

theorem breakpoint_takes (s : State) : TakesException s (breakpoint s) 3#12 (freeWord s) :=
  exceptionEntry_drawn_takes _ _ s

/-- Settles O39: the free value of `mtval` is the next draw. -/
theorem environmentCalls : Obligations.EnvironmentCalls := fun s =>
  ⟨freeWord s, ⟨_, rfl, environmentCall_takes s⟩, ⟨_, rfl, breakpoint_takes s⟩, ⟨_, rfl, breakpoint_takes s⟩⟩

/-! ## Return from a trap -/

/-- In Machine Mode `mret` returns from the trap and counts as an instruction (R300). -/
theorem mret_exec {s : State} (hp : s.priv = .M) : exec .mret s = .next (countRetired (returnFromTrap s)) := by
  show execMret s = _
  unfold execMret
  rw [hp]

/-- In User Mode `mret` takes Illegal Instruction (R300). -/
theorem mret_exec_user {s : State} (hp : s.priv = .U) : exec .mret s = .next (illegalInstruction 0x30200073#32 s) := by
  show execMret s = _
  unfold execMret
  rw [hp]
  rfl

/-- The state stack and the cause pop; the pc, the mode, MIE and TYP come back (R301). -/
theorem returnFromTrap_of_exception {s : State} (h : s.csr.mcause.interrupt = false) :
    returnFromTrap s = { mretPop s with
      pc := clearBit0 s.csr.mepc,
      priv := if s.cfg.hasUMode then s.csr.mstatus.mpp else .M,
      reservation := none,
      csr := { (mretPop s).csr with
        mstatus := { (mretPop s).csr.mstatus with mie := s.csr.mstatus.mpie },
        msubm := { (mretPop s).csr.msubm with typ := s.csr.msubm.ptyp } } } := by
  simp only [returnFromTrap, h]
  rfl

/-- The level comes back with the pc, the mode, MIE and TYP (R302). -/
theorem returnFromTrap_of_interrupt {s : State} (h : s.csr.mcause.interrupt = true) :
    returnFromTrap s = { mretInterrupt s with
      pc := clearBit0 s.csr.mepc,
      priv := if s.cfg.hasUMode then s.csr.mstatus.mpp else .M,
      reservation := none,
      csr := { (mretInterrupt s).csr with
        mstatus := { (mretInterrupt s).csr.mstatus with mie := s.csr.mstatus.mpie },
        msubm := { (mretInterrupt s).csr.msubm with typ := s.csr.msubm.ptyp } } } := by
  simp only [returnFromTrap, h]
  rfl

/-- Returning from a trap writes none of the CSRs that taking one leaves alone. -/
theorem returnFromTrap_csrs (s : State) : TrapCsrsKept s (returnFromTrap s) := by
  cases h : s.csr.mcause.interrupt with
  | true =>
    rw [returnFromTrap_of_interrupt h]
    exact ⟨rfl, rfl, rfl, rfl, rfl, rfl, rfl, rfl, rfl, rfl, rfl, rfl, rfl⟩
  | false =>
    rw [returnFromTrap_of_exception h]
    exact ⟨rfl, rfl, rfl, rfl, rfl, rfl, rfl, rfl, rfl, rfl, rfl, rfl, rfl⟩

/-- What `mret` does whatever it returns from: where it goes, its count, and what it keeps (R300). -/
structure Returned (s t : State) : Prop where
  pc : t.pc = s.csr.mepc.extractLsb' 1 31 ++ 0#1
  priv : t.priv = if s.cfg.hasUMode then s.csr.mstatus.mpp else .M
  count : t.csr.minstret = if s.csr.inhibitIr then s.csr.minstret else s.csr.minstret + 1#64
  csrs : TrapCsrsKept { s with csr := { s.csr with minstret := t.csr.minstret } } t
  reservation : t.reservation = none
  regs : RegsKept s t
  memory : MemoryKept s t
  units : UnitsKept s t

/-- `mret` does so in both cases, which differ only in CSRs that taking a trap writes. -/
theorem countRetired_returnFromTrap (s : State) : Returned s (countRetired (returnFromTrap s)) where
  pc := by rw [countRetired_pc, ← clearBit0_eq]; rfl
  priv := by rw [countRetired_priv]; rfl
  count := by
    have kept := returnFromTrap_csrs s
    rw [countRetired_csr_minstret, kept.inhibitIr, kept.minstret]
  csrs := by
    obtain ⟨mtvec, mtvt, mscratch, mcycle, -, mcounteren, inhibitCy, inhibitIr, nmiCauseFff, commonEntry, mtvt2en,
      sleepvalue, wfe⟩ := returnFromTrap_csrs s
    constructor <;> simp [*]
  reservation := by rw [countRetired_reservation]; rfl
  regs := readReg_congr (by simp)
  memory := memoryKept_of (by simp) (by simp)
  units := by constructor <;> simp

/-- Settles O40: the first level of the state stack goes to the CSRs it was saved from, the second to the first. -/
theorem mretFromException : Obligations.MretFromException := by
  intro s hp h
  obtain ⟨pc, priv, count, csrs, reservation, regs, memory, units⟩ := countRetired_returnFromTrap s
  refine ⟨_, mret_exec hp, pc, priv, ?_, ?_, ?_, ?_, ?_, ?_, ?_, ?_, ?_, ?_, ?_, ?_, count, csrs, reservation, regs,
    memory, units⟩
  all_goals
    rw [returnFromTrap_of_exception h]
    simp [mretPop, causeFields, bitOf]

/-- Settles O41: MPIL goes back to MIL, and the state stack is not touched. -/
theorem mretFromInterrupt : Obligations.MretFromInterrupt := by
  intro s hp h
  obtain ⟨pc, priv, count, csrs, reservation, regs, memory, units⟩ := countRetired_returnFromTrap s
  have stack : StackKept s (countRetired (returnFromTrap s)) := by
    rw [returnFromTrap_of_interrupt h]
    constructor <;> simp [mretInterrupt]
  refine ⟨_, mret_exec hp, pc, priv, ?_, ?_, ?_, ?_, ?_, ?_, stack, count, csrs, reservation, regs, memory, units⟩
  all_goals
    rw [returnFromTrap_of_interrupt h]
    simp [mretInterrupt]

/-! ## Sleep -/

/-- Settles O42: `wfi` completes, with or without the hart put to sleep first. -/
theorem wfiResult : Obligations.WfiResult := by
  intro s
  have condition : (s.busErr.pending || wakeCondition s) = true ↔ s.busErr.pending = true ∨ WakeCondition s := by
    rw [Bool.or_eq_true, wakeCondition_iff]
  refine ⟨fun awake => ?_, fun noError noWake => ?_⟩
  · obtain ⟨t, ht, computes⟩ := retireTo_computes (s.pc + 4#32) s
    exact ⟨t, (if_pos (condition.2 awake)).trans ht, computes⟩
  · obtain ⟨t, ht, computes⟩ := retireTo_computes (s.pc + 4#32) { s with sleeping := true }
    have asleep : ¬ (s.busErr.pending = true ∨ WakeCondition s) := by simp [noError, noWake]
    exact ⟨t, (if_neg (mt condition.1 asleep)).trans ht, computes⟩

/-! ## CSR instructions on register CSRs -/

/-- A CSR instruction that does not write is a register write of the CSR's value (R284). -/
theorem csrAccess_read {fn : CsrFn} {src : CsrSrc} (h : csrWrites fn src = false) (rd : Reg) (r : CsrReg) (s : State) :
    csrAccess fn src rd r s = retireWrite rd (csrRead s r) 4#32 s := by
  have comm : setReg rd (csrRead s r) (countRetired s) = countRetired (setReg rd (csrRead s r) s) := by
    unfold setReg countRetired
    split <;> split <;> rfl
  simp [csrAccess, h, comm, retireWrite, retire, retireTo]

/-- An instruction that writes `rd` and completes in state `s'` computes from there. -/
theorem runsTo_of_retireWrite_from {i : Instr} {s s' : State} {rd : Reg} {v len : Word}
    (hx : exec i s = retireWrite rd v len s') : RunsTo i s (fun t => Computes s' t rd v (s'.pc + len)) := by
  obtain ⟨t, ht, computes⟩ := retireWrite_computes rd v len s'
  exact ⟨t, hx.trans ht, computes⟩

/-- On a register CSR that the check of R289 allows, a CSR instruction accesses it. -/
theorem csrInstr_reg {a : BitVec 12} {r : CsrReg} {fn : CsrFn} {src : CsrSrc} {s : State}
    (ha : csrOfAddr a = some (.reg r)) (allowed : csrAllowed s (.reg r) (csrWrites fn src) = true) (rd : Reg)
    (w : Word) : csrInstr fn src rd a w s = csrAccess fn src rd r s := by
  simp only [csrInstr, ha, allowed, if_true]

/-- Counting the instruction changes CSRs alone. -/
theorem countedFor_eq (r : CsrReg) (s : State) : countedFor r s = { s with csr := (countedFor r s).csr } := by
  unfold countedFor countRetired
  (repeat' split) <;> rfl

/-- The state a writing CSR instruction leaves before its register write: CSRs, draws of a mode, and the `tx_evt` pulse
are all that is not as it was (R68, R296). -/
theorem csrWrite_countedFor_eq (r : CsrReg) (v : Word) (s : State) :
    ∃ k d, csrWrite r v (countedFor r s) =
      { s with csr := k, draws := d, txEvt := if r = .txevt ∧ bitOf v 0 then true else s.txEvt } := by
  rw [countedFor_eq]
  exact ⟨_, _, rfl⟩

/-- Settles O43: an instruction that only reads is a register write; one that writes adds to it the CSRs and the
pulse. -/
theorem csrInstructionsComplete : Obligations.CsrInstructionsComplete := by
  intro s f rd a u r ha allowed
  cases writes : f.writes u with
  | false =>
    obtain ⟨fn, src, hx, hw, -, -⟩ := csr_exec f rd a u s
    rw [← hw] at allowed writes
    have reads := runsTo_of_retireWrite_from
      (hx.trans ((csrInstr_reg ha allowed rd _).trans (csrAccess_read writes rd r s)))
    refine reads.imp fun t computes => ?_
    obtain ⟨cfg, timer, eclic, nmiPending, nmiPrev, sleeping, busErr, txEvt, now, future⟩ := computes.units
    exact ⟨computes.regs, computes.pc, computes.priv, computes.memory, computes.reservation,
      ⟨cfg, timer, eclic, nmiPending, nmiPrev, sleeping, busErr, rfl, now, future⟩, by simp [txEvt],
      fun _ => computes.csrs⟩
  | true =>
    obtain ⟨t, ht⟩ : ∃ t, exec (f.instr rd a u) s = .next t := ⟨_, csr_exec_reg ha allowed⟩
    have written := csr_exec_write ha allowed writes ht
    obtain ⟨k, d, hk⟩ := csrWrite_countedFor_eq r (f.newValue (csrRead s r) (f.operand s u)) s
    rw [hk] at written
    subst written
    obtain ⟨dest, others⟩ := regWrite_setReg (s := { s with csr := k, draws := d, txEvt := _ }) rd (csrRead s r)
    exact ⟨_, ht, ⟨dest, others⟩, rfl, by simp, memoryKept_of (by simp) (by simp), by simp,
      by constructor <;> simp, by simp [bitOf, or_comm], nofun⟩

/-! ### Reading back what was written -/

/-- Two neighbouring fields of a value, each with the bits its part of a mask keeps, are the two as one field with the
bits the mask keeps. -/
theorem append_eq_and {w m n lo : Nat} {v : BitVec w} {x p : BitVec m} {y q : BitVec n}
    (hx : x = v.extractLsb' (lo + n) m &&& p) (hy : y = v.extractLsb' lo n &&& q) :
    x ++ y = v.extractLsb' lo (m + n) &&& (p ++ q) := by
  rw [hx, hy, ← extract_join, BitVec.and_append]

/-- A field that the mask keeps. -/
theorem field_eq_and {w : Nat} (v : BitVec w) (i k : Nat) :
    v.extractLsb' i k = v.extractLsb' i k &&& BitVec.allOnes k := BitVec.and_allOnes.symm

/-- A field that the mask clears. -/
theorem gap_eq_and {k : Nat} (x : BitVec k) : 0#k = x &&& 0#k := BitVec.and_zero.symm

/-- One bit, as a field. -/
theorem bit_eq_and (v : Word) (k : Nat) : bit (bitOf v k) = v.extractLsb' k 1 &&& BitVec.allOnes 1 := by
  rw [BitVec.and_allOnes]
  apply BitVec.eq_of_getLsbD_eq
  intro i hi
  obtain rfl : i = 0 := by omega
  simp [bit, bitOf]

theorem boolWord_eq (b : Bool) : boolWord b = 0#31 ++ bit b := by
  cases b <;> rfl

/-- Fields laid out side by side are the value under the mask laid out from theirs. -/
theorem eq_and_mask {v x p mask : Word} (h : x = v.extractLsb' 0 32 &&& p) (hm : p = mask) : x = v &&& mask := by
  rw [h, hm, extract_all]

/-- What `mcounteren` keeps of a write (R54). -/
theorem mcounteren_fields (v : Word) :
    0#29 ++ bit (bitOf v 2) ++ bit (bitOf v 1) ++ bit (bitOf v 0) = v &&& 0x00000007#32 :=
  eq_and_mask (append_eq_and (append_eq_and (append_eq_and (gap_eq_and _) (bit_eq_and v 2)) (bit_eq_and v 1))
    (bit_eq_and v 0)) (by decide)

/-- What `mcountinhibit` keeps (R55). -/
theorem mcountinhibit_fields (v : Word) : 0#29 ++ bit (bitOf v 2) ++ 0#1 ++ bit (bitOf v 0) = v &&& 0x00000005#32 :=
  eq_and_mask (append_eq_and (append_eq_and (append_eq_and (gap_eq_and _) (bit_eq_and v 2)) (gap_eq_and _))
    (bit_eq_and v 0)) (by decide)

/-- What `msubm` keeps (R57). -/
theorem msubm_fields (v : Word) :
    0#22 ++ v.extractLsb' 8 2 ++ v.extractLsb' 6 2 ++ 0#6 = v &&& 0x000003C0#32 :=
  eq_and_mask (append_eq_and (append_eq_and (append_eq_and (gap_eq_and _) (field_eq_and v 8 2)) (field_eq_and v 6 2))
    (gap_eq_and _)) (by decide)

/-- What `mmisc_ctl` keeps (R58). -/
theorem mmiscCtl_fields (v : Word) : 0#22 ++ bit (bitOf v 9) ++ 0#9 = v &&& 0x00000200#32 :=
  eq_and_mask (append_eq_and (append_eq_and (gap_eq_and _) (bit_eq_and v 9)) (gap_eq_and _)) (by decide)

/-- What `mtvt2` keeps (R65). -/
theorem mtvt2_fields (v : Word) : v.extractLsb' 2 30 ++ 0#1 ++ bit (bitOf v 0) = v &&& 0xFFFFFFFD#32 :=
  eq_and_mask (append_eq_and (append_eq_and (field_eq_and v 2 30) (gap_eq_and _)) (bit_eq_and v 0)) (by decide)

/-- What `wfe` and `sleepvalue` keep (R67, R69). -/
theorem boolWord_field (v : Word) : boolWord (bitOf v 0) = v &&& 0x00000001#32 := by
  rw [boolWord_eq]
  exact eq_and_mask (append_eq_and (gap_eq_and _) (bit_eq_and v 0)) (by decide)

/-- What `mtvt` keeps: all but the low bits that its alignment clears (R40). -/
theorem clearLow_eq_and (k : Nat) (v : Word) : clearLow k v = v &&& (0xFFFFFFFF#32 <<< k) := by
  have ones : 0xFFFFFFFF#32 = BitVec.allOnes 32 := by decide
  apply BitVec.eq_of_getLsbD_eq
  intro i hi
  simp only [clearLow, ones, BitVec.getLsbD_and, BitVec.getLsbD_shiftLeft, BitVec.getLsbD_ushiftRight, hi, decide_true,
    Bool.true_and, BitVec.getLsbD_allOnes]
  by_cases hk : i < k
  · simp [hk]
  · simp [hk, show k + (i - k) = i by omega, show i - k < 32 by omega]

/-- A register CSR reads back the writable bits of what was written (R296). -/
theorem csrRead_csrWrite_same {r : CsrReg} {s : State} {m : Word} (h : writableBits s.cfg r = some m) (v : Word) :
    csrRead (csrWrite r v s) r = v &&& m := by
  have whole (v : Word) : v = v &&& 0xFFFFFFFF#32 := (BitVec.and_allOnes (x := v)).symm
  cases r with
  | mstatus | mcause | msavestatus | mvendorid | marchid | mimpid | mhartid | misa | mintstatus | mnvec | cycle | time
  | instret | cycleh | timeh | instreth => exact nomatch h
  | mie | mip | txevt => cases h; exact gap_eq_and v
  | mtvec | mscratch | mtval => cases h; exact whole v
  | mcycle | minstret =>
    cases h; exact ((extract_append_low _ _ 0 32 (by decide)).trans (extract_all v)).trans (whole v)
  | mcycleh | minstreth =>
    cases h; exact ((extract_append_high _ _ 32 32 (by decide)).trans (extract_all v)).trans (whole v)
  | mcounteren => cases h; exact mcounteren_fields v
  | mtvt => cases h; exact clearLow_eq_and _ v
  | mcountinhibit => cases h; exact mcountinhibit_fields v
  | mepc | msaveepc1 | msaveepc2 | msavecause1 | msavecause2 => cases h; rfl
  | msubm => cases h; exact msubm_fields v
  | mmiscCtl => cases h; exact mmiscCtl_fields v
  | mtvt2 => cases h; exact mtvt2_fields v
  | wfe | sleepvalue => cases h; exact boolWord_field v

/-- Settles O44: what is written is read back, and the register write that follows does not show in a CSR. -/
theorem csrWriteReadsBack : Obligations.CsrWriteReadsBack := by
  intro s t f rd a u r m ha allowed writes hm ht
  have written := csr_exec_write ha allowed writes ht
  calc csrRead t r
    _ = csrRead (csrWrite r (f.newValue (csrRead s r) (f.operand s u)) (countedFor r s)) r := by
      subst written
      exact csrRead_congr (setReg_cfg _ _ _) (setReg_csr _ _ _) (setReg_timer _ _ _) r
    _ = f.newValue (csrRead s r) (f.operand s u) &&& m := csrRead_csrWrite_same (by rwa [countedFor_cfg]) _

/-! ### Accesses outside the check -/

/-- A write to a read-only CSR is not allowed (R288). -/
theorem csrAllowed_readOnly {s : State} {n : CsrName} (h : csrAttr n ≠ .mrw) : csrAllowed s n true = false := by
  simp [csrAllowed, h]

/-- In User Mode only an enabled counter is accessible (R286, R287). -/
theorem csrAllowed_user {s : State} {n : CsrName} (hp : s.priv = .U)
    (h : csrAttr n ≠ .uro ∨ counterEnabled s n = false) (w : Bool) : csrAllowed s n w = false := by
  rcases h with h | h <;> simp [csrAllowed, hp, h]

/-- Without User Mode there is no `mcounteren` (R54). -/
theorem csrAllowed_mcounteren {s : State} (h : s.cfg.hasUMode = false) (w : Bool) :
    csrAllowed s (.reg .mcounteren) w = false := by
  simp [csrAllowed, h]

/-- Settles O47: in each case the check of R289 fails for whatever the address names. -/
theorem csrAccessTraps : Obligations.CsrAccessTraps := by
  intro s f rd a u
  refine ⟨fun h => ⟨_, csr_exec_illegal (fun n hn => ?_), exceptionEntry_takes _ _ s⟩,
    fun hp => ⟨_, mret_exec_user hp, exceptionEntry_takes _ _ s⟩⟩
  rcases h with absent | ⟨n', named, ⟨writes, attr⟩ | ⟨user, hidden⟩⟩ | ⟨mcounteren, noUser⟩
  · cases absent.symm.trans hn
  · cases named.symm.trans hn
    rw [writes]
    exact csrAllowed_readOnly attr
  · cases named.symm.trans hn
    exact csrAllowed_user user hidden _
  · cases mcounteren.symm.trans hn
    exact csrAllowed_mcounteren noUser _

/-! ## Operation CSRs -/

/-- Settles O54: of the forms of an operation CSR those not described run no operation. -/
theorem undescribedFormsStop : Obligations.UndescribedFormsStop := by
  intro s f rd a u o hp ha undescribed
  cases o with
  | mscratchcsw | mscratchcswl | jalmnxti =>
    cases f with
    | rw => exact nomatch undescribed
    | rs | rc | rwi | rsi | rci => exact csrInstr_op ha hp _ _ _ _
  | mnxti =>
    cases f with
    | rs | rc | rsi | rci => exact nomatch undescribed
    | rw | rwi => exact csrInstr_op ha hp _ _ _ _
  | pushmsubm | pushmcause | pushmepc =>
    cases f with
    | rwi => exact nomatch undescribed
    | rw | rs | rc | rsi | rci => exact csrInstr_op ha hp _ _ _ _

/-! ### Swaps with `mscratch` -/

/-- `csrrw` on `mscratchcsw` swaps on a change of mode, on `mscratchcswl` on a change of level (R303, R304). -/
theorem scratch_exec {s : State} {a : BitVec 12} {swap : Bool} (hp : s.priv = .M)
    (ha : (a = 0x348#12 ∧ privilegeChanged s = swap) ∨ (a = 0x349#12 ∧ levelChanged s = swap)) (rd rs1 : Reg) :
    exec (.csrrw rd a rs1) s = scratchSwap swap rd rs1 s := by
  obtain ⟨rfl, rfl⟩ | ⟨rfl, rfl⟩ := ha
  · exact csrInstr_op (a := 0x348#12) (o := .mscratchcsw) rfl hp _ _ _ _
  · exact csrInstr_op (a := 0x349#12) (o := .mscratchcswl) rfl hp _ _ _ _

theorem privilegeChanged_iff (s : State) : privilegeChanged s = true ↔ s.csr.mstatus.mpp ≠ .M := bne_iff_ne

theorem privilegeChanged_eq_false_iff (s : State) : privilegeChanged s = false ↔ s.csr.mstatus.mpp = .M := by
  simp [privilegeChanged]

theorem levelChanged_iff (s : State) : levelChanged s = true ↔ ¬ (s.csr.mcause.mpil = 0#8 ↔ s.csr.mil = 0#8) := by
  simp [levelChanged]

theorem levelChanged_eq_false_iff (s : State) :
    levelChanged s = false ↔ (s.csr.mcause.mpil = 0#8 ↔ s.csr.mil = 0#8) := by
  simp [levelChanged]

/-- On its condition either CSR is swapped: a move to `rd` from the state in which `mscratch` received `rs1`. -/
theorem csrrw_scratch_swaps {s : State} {a : BitVec 12} (hp : s.priv = .M)
    (h : (a = 0x348#12 ∧ s.csr.mstatus.mpp ≠ .M) ∨
      (a = 0x349#12 ∧ ¬ (s.csr.mcause.mpil = 0#8 ↔ s.csr.mil = 0#8))) (rd rs1 : Reg) :
    RunsTo (.csrrw rd a rs1) s (fun t =>
      Computes { s with csr := { s.csr with mscratch := readReg s rs1 } } t rd s.csr.mscratch (s.pc + 4#32)) := by
  rw [← privilegeChanged_iff, ← levelChanged_iff] at h
  exact runsTo_of_retireWrite_from (scratch_exec hp h rd rs1)

/-- Off its condition either CSR is left alone, and `rs1` goes to `rd`. -/
theorem csrrw_scratch_moves {s : State} {a : BitVec 12} (hp : s.priv = .M)
    (h : (a = 0x348#12 ∧ s.csr.mstatus.mpp = .M) ∨
      (a = 0x349#12 ∧ (s.csr.mcause.mpil = 0#8 ↔ s.csr.mil = 0#8))) (rd rs1 : Reg) :
    RunsTo (.csrrw rd a rs1) s (fun t => Computes s t rd (readReg s rs1) (s.pc + 4#32)) := by
  rw [← privilegeChanged_eq_false_iff, ← levelChanged_eq_false_iff] at h
  exact runsTo_of_retireWrite_from (scratch_exec hp h rd rs1)

/-! ### The next interrupt -/

/-- There is nothing to claim without a request, or with a vectored one, or with one not above MPIL (R305). -/
theorem nextInterrupt_none {s : State} (h : ∀ r, eclicRequest s.cfg s.eclic = some r →
    r.shv = true ∨ r.level.toNat ≤ s.csr.mcause.mpil.toNat) : nextInterrupt s = none := by
  unfold nextInterrupt
  cases request : eclicRequest s.cfg s.eclic with
  | none => rfl
  | some r =>
    obtain shv | level := h r request
    · simp [shv]
    · simp [BitVec.ult, level]

/-- A non-vectored request above MPIL is the next interrupt (R305). -/
theorem nextInterrupt_some {s : State} {r : Candidate} (request : eclicRequest s.cfg s.eclic = some r)
    (shv : r.shv = false) (level : s.csr.mcause.mpil.toNat < r.level.toNat) : nextInterrupt s = some r := by
  simp [nextInterrupt, request, shv, BitVec.ult, level]

/-- What a claim changes: EXCCODE and MIL, the IP of an edge-triggered source, and a bus error that is delivered (R305,
R418, R483). -/
theorem claimInterrupt_eq (r : Candidate) (s : State) :
    ∃ e, IpCleared s.eclic e r.id ∧ claimInterrupt r s = { s with
      csr := { s.csr with mil := r.level, mcause := { s.csr.mcause with exccode := BitVec.ofNat 12 r.id } },
      eclic := e,
      busErr := busErrClaimed s.busErr r.id } :=
  ⟨_, rfl, rfl⟩

/-- Drawing a free value and claiming a source are independent. -/
theorem claimInterrupt_drawn (r : Candidate) (s : State) :
    claimInterrupt r (drawn s) = drawn (claimInterrupt r s) := rfl

/-! ### `mnxti` -/

/-- Each described form of `mnxti` runs `mnxtiOp` with the columns of its row of R284. -/
theorem mnxti_exec {f : CsrForm} {s : State} (hp : s.priv = .M) (described : f.described .mnxti = true) (rd : Reg)
    (u : BitVec 5) : ∃ fn src, exec (f.instr rd 0x345#12 u) s = mnxtiOp fn src rd s ∧ csrWrites fn src = f.writes u ∧
      csrNewValue fn (csrRead s .mstatus) (csrSrcValue s src) = f.newValue (csrRead s .mstatus) (f.operand s u) := by
  have op := csrInstr_op (a := 0x345#12) (o := .mnxti) rfl hp
  cases f with
  | rw | rwi => exact nomatch described
  | rs => exact ⟨.set, .reg u, op _ _ _ _, rfl, rfl⟩
  | rc => exact ⟨.clear, .reg u, op _ _ _ _, rfl, rfl⟩
  | rsi => exact ⟨.set, .imm u, op _ _ _ _, rfl, rfl⟩
  | rci => exact ⟨.clear, .imm u, op _ _ _ _, rfl, rfl⟩

/-- A form of `mnxti` that does not write leaves `mstatus` alone. -/
theorem mnxtiStatus_kept {fn : CsrFn} {src : CsrSrc} (h : csrWrites fn src = false) (s : State) :
    mnxtiStatus fn src s = s := by
  simp [mnxtiStatus, h]

/-- One that writes writes `mstatus`, drawing the mode that MPP may need (R305, log 26). -/
theorem mnxtiStatus_written {fn : CsrFn} {src : CsrSrc} (h : csrWrites fn src = true) (s : State) :
    ∃ m, MstatusWritten s.cfg m (csrNewValue fn (csrRead s .mstatus) (csrSrcValue s src)) ∧
      mnxtiStatus fn src s = drawn { s with csr := { s.csr with mstatus := m } } := by
  refine ⟨mstatusWrite s.cfg (Config.freeBit s.draws) _, ⟨rfl, rfl, legalMpp_legal _ _ _, rfl⟩, ?_⟩
  rw [mnxtiStatus, if_pos h]
  rfl

/-- Settles O49: with nothing to claim, `mnxti` is its write to `mstatus` and a 0 in `rd`. -/
theorem mnxtiWithoutRequest : Obligations.MnxtiWithoutRequest := by
  intro s f rd u hp described nothing
  obtain ⟨fn, src, hx, hw, hv⟩ := mnxti_exec hp described rd u
  rw [mnxtiOp, nextInterrupt_none nothing] at hx
  rw [← hw, ← hv]
  cases writes : csrWrites fn src with
  | false =>
    rw [mnxtiStatus_kept writes] at hx
    exact (runsTo_of_retireWrite_from hx).imp fun t computes => ⟨_, computes, fun _ => rfl, nofun⟩
  | true =>
    obtain ⟨m, written, hs⟩ := mnxtiStatus_written writes s
    simp only [hs] at hx
    exact (runsTo_of_retireWrite_from hx).imp fun t computes =>
      ⟨m, computes_of_drawn computes, nofun, fun _ => written⟩

/-- The value `mnxti` returns: the entry's address, or what a vector read gets there (R305, R478). -/
theorem mnxtiValue_some {s : State} {r : Candidate}
    (h : s.cfg.mnxtiReturnsEntryAddress = true ∨ CanReadVector s (vectorAddress s r.id)) :
    mnxtiValue s r = some (if s.cfg.mnxtiReturnsEntryAddress then vectorAddress s r.id
      else vectorWord s (vectorAddress s r.id)) := by
  unfold mnxtiValue
  split
  · rfl
  · next address => exact vectorRead_of_canRead (h.resolve_left address)

/-- Settles O50: without a write `mnxti` returns the value alone; with one, the claim follows the write to `mstatus`. -/
theorem mnxtiClaims : Obligations.MnxtiClaims := by
  rintro s f rd u r _ hp described request shv level rfl readable
  obtain ⟨fn, src, hx, hw, hv⟩ := mnxti_exec hp described rd u
  rw [mnxtiOp, nextInterrupt_some request shv level] at hx
  simp only [mnxtiValue_some readable] at hx
  rw [← hw, ← hv]
  cases writes : csrWrites fn src with
  | false =>
    rw [writes, if_neg Bool.false_ne_true] at hx
    exact (runsTo_of_retireWrite_from hx).imp fun t computes => ⟨s.csr.mstatus, s.eclic, fun _ => computes, nofun⟩
  | true =>
    obtain ⟨m, written, hs⟩ := mnxtiStatus_written writes s
    obtain ⟨e, cleared, hc⟩ := claimInterrupt_eq r { s with csr := { s.csr with mstatus := m } }
    rw [writes, if_pos rfl, hs, claimInterrupt_drawn, hc] at hx
    exact (runsTo_of_retireWrite_from hx).imp fun t computes =>
      ⟨m, e, nofun, fun _ => ⟨computes_of_drawn computes, written, cleared⟩⟩

/-! ### `jalmnxti` -/

/-- In Machine Mode `csrrw` on `jalmnxti` runs `jalmnxtiOp`. -/
theorem jalmnxti_exec {s : State} (hp : s.priv = .M) (rd rs1 : Reg) :
    exec (.csrrw rd 0x7ED#12 rs1) s = jalmnxtiOp rd s :=
  csrInstr_op (a := 0x7ED#12) (o := .jalmnxti) rfl hp _ _ _ _

/-- Settles O51: with nothing to claim only the pc goes on; else the claim, then MIE, then a jump with link to its own
instruction. -/
theorem jalmnxtiResults : Obligations.JalmnxtiResults := by
  intro s rd rs1 hp
  have hx := jalmnxti_exec hp rd rs1
  refine ⟨fun nothing => ?_, ?_⟩
  · rw [jalmnxtiOp, nextInterrupt_none nothing] at hx
    obtain ⟨t, ht, computes⟩ := retireTo_computes (s.pc + 4#32) s
    exact ⟨t, hx.trans ht, computes⟩
  · rintro r _ request shv level rfl readable
    obtain ⟨e, cleared, hc⟩ := claimInterrupt_eq r s
    rw [jalmnxtiOp, nextInterrupt_some request shv level] at hx
    simp only [vectorRead_of_canRead readable, hc, clearBit0_eq] at hx
    obtain ⟨t, ht, computes⟩ := computes_retireTo (regWrite_setReg _ rd s.pc) (setReg_eq rd s.pc _)
    exact ⟨t, hx.trans ht, e, cleared, computes⟩

/-! ### A claim whose table entry cannot be read -/

/-- Settles O52: the vector read comes before anything is written, and its failure takes the exception. -/
theorem claimReadFails : Obligations.ClaimReadFails := by
  rintro s f rd rs1 u r _ hp described request shv level rfl unreadable
  have next := nextInterrupt_some request shv level
  have fails : vectorRead s r.id = none := vectorRead_of_not_canRead unreadable
  refine ⟨fun value => ?_, ?_⟩
  · obtain ⟨fn, src, hx, -, -⟩ := mnxti_exec hp described rd u
    rw [mnxtiOp, next] at hx
    simp only [mnxtiValue, value, fails] at hx
    exact ⟨_, hx, exceptionEntry_takes _ _ s⟩
  · have hx := jalmnxti_exec hp rd rs1
    rw [jalmnxtiOp, next] at hx
    simp only [fails] at hx
    exact ⟨_, hx, exceptionEntry_takes _ _ s⟩

end Sys2Proof.Machine

namespace Sys2Proof

/-- Settles O48: a swap on the condition, a move off it. -/
theorem scratchSwap : Obligations.ScratchSwap := fun _ rd rs1 _ hp =>
  ⟨fun h => Machine.csrrw_scratch_swaps hp h rd rs1, fun h => Machine.csrrw_scratch_moves hp h rd rs1⟩

end Sys2Proof
end

section
/-! PROOFS. User Mode (spec/60_exceptions.md R402): what an instruction can do there, and how a step leaves it. Before
it completes, an instruction other than `mret`, `wfi` and the CSR instructions changes neither the mode nor a CSR nor
sleep; in User Mode `mret` traps, and a CSR instruction traps or only reads. -/

namespace Sys2Proof.Machine

/-! ## Operations that keep the mode, the CSRs and sleep -/

/-- The privilege mode, the CSRs and sleep are as before. -/
structure ControlKept (s t : State) : Prop where
  priv : t.priv = s.priv
  csr : t.csr = s.csr
  sleeping : t.sleeping = s.sleeping

theorem ControlKept.refl (s : State) : ControlKept s s := ⟨rfl, rfl, rfl⟩

theorem ControlKept.trans {s t u : State} (h : ControlKept s t) (h' : ControlKept t u) : ControlKept s u :=
  ⟨h'.priv.trans h.priv, h'.csr.trans h.csr, h'.sleeping.trans h.sleeping⟩

theorem setReg_controlKept (r : Reg) (v : Word) (s : State) : ControlKept s (setReg r v s) :=
  ⟨setReg_priv r v s, setReg_csr r v s, setReg_sleeping r v s⟩

theorem memRead_controlKept {a : Word} {n : Nat} {s s' : State} {v : Word} (h : memRead a n s = .ok (v, s')) :
    ControlKept s s' := by
  obtain ⟨w, hr⟩ | ⟨w, hr⟩ | ⟨w, hr⟩ | ⟨-, -, hr⟩ := memRead_cases a n s <;> rw [hr] at h <;> cases h <;>
    exact ⟨rfl, rfl, rfl⟩

theorem writePlace_controlKept {a : Word} {n : Nat} {v : Word} {s s' : State} (h : writePlace a n v s = .ok s') :
    ControlKept s s' := by
  obtain ⟨-, -, hw⟩ | ⟨-, -, hw⟩ | ⟨-, hw⟩ | ⟨-, hw⟩ | hw | hw := writePlace_cases a n v s <;> rw [hw] at h <;> cases h
  · exact ⟨rfl, rfl, rfl⟩
  · exact ⟨rfl, rfl, rfl⟩
  · exact ⟨storeBytes_priv a n v s, storeBytes_csr a n v s, storeBytes_sleeping a n v s⟩
  · exact .refl s
  · exact ⟨rfl, rfl, rfl⟩

theorem memWrite_controlKept {a : Word} {n : Nat} {v : Word} {s s' : State} (h : memWrite a n v s = .ok s') :
    ControlKept s s' := by
  unfold memWrite at h
  cases hw : writePlace a n v s with
  | error r => rw [hw] at h; cases h
  | ok u =>
    rw [hw] at h; cases h
    exact (writePlace_controlKept hw).trans
      ⟨breakReservation_priv a n u, breakReservation_csr a n u, breakReservation_sleeping a n u⟩

/-! ## Completing or trapping -/

/-- The instruction completed in the mode it began in: of the CSRs it changed `minstret` alone, and it did not sleep. -/
structure CompletesInMode (s t : State) : Prop where
  priv : t.priv = s.priv
  csrs : OnlyCounted s t
  sleeping : t.sleeping = s.sleeping

/-- If the outcome is a next state, the instruction completed in its mode or took an exception. -/
def Confined (s : State) (r : Result) : Prop :=
  ∀ t, r = .next t → CompletesInMode s t ∨ ∃ code tval, TakesException s t code tval

theorem confined_exception {s t : State} {code : BitVec 12} {tval : Word} (h : TakesException s t code tval) :
    Confined s (.next t) := by
  rintro _ ⟨⟩; exact .inr ⟨code, tval, h⟩

theorem confined_refused (s : State) (r : Refusal) : Confined s (.refused r) := by
  intro _ h; cases h

theorem retireTo_confined {s s' : State} (h : ControlKept s s') (next : Word) : Confined s (retireTo next s') := by
  obtain ⟨t, ht, computes⟩ := retireTo_computes next s'
  intro _ ht'
  cases ht.symm.trans ht'
  obtain ⟨count, others⟩ := computes.csrs
  rw [h.csr] at count others
  exact .inl ⟨computes.priv.trans h.priv, ⟨count, others⟩, computes.units.sleeping.trans h.sleeping⟩

theorem retireWrite_confined {s s' : State} (h : ControlKept s s') (rd : Reg) (v len : Word) :
    Confined s (retireWrite rd v len s') :=
  retireTo_confined (h.trans (setReg_controlKept rd v s')) _

/-! ## Loads, stores and atomic instructions -/

theorem loadOp_confined (rd : Reg) (a : Word) (n : Nat) (ext : Word → Word) (len : Word) (s : State) :
    Confined s (loadOp rd a n ext len s) := by
  unfold loadOp
  split
  · exact confined_exception (exceptionEntry_takes _ _ s)
  · split
    · next h => exact retireWrite_confined (memRead_controlKept h) _ _ _
    · exact confined_refused s _

theorem storeOp_confined (a : Word) (n : Nat) (v len : Word) (s : State) : Confined s (storeOp a n v len s) := by
  unfold storeOp
  split
  · exact confined_exception (exceptionEntry_takes _ _ s)
  · split
    · next h => exact retireTo_confined (memWrite_controlKept h) _
    · exact confined_refused s _

theorem amoOp_confined (f : Word → Word → Word) (rd rs2 rs1 : Reg) (s : State) : Confined s (amoOp f rd rs2 rs1 s) := by
  unfold amoOp
  split
  · exact confined_exception (exceptionEntry_takes _ _ s)
  · split
    · exact confined_refused s _
    · split
      · exact confined_refused s _
      · next hr =>
        split
        · exact confined_refused s _
        · next hw => exact retireWrite_confined ((memRead_controlKept hr).trans (memWrite_controlKept hw)) _ _ _

theorem execLrW_confined (rd rs1 : Reg) (aq rl : BitVec 1) (s : State) : Confined s (execLrW rd rs1 aq rl s) := by
  unfold execLrW
  split
  · exact confined_exception (exceptionEntry_takes _ _ s)
  · split
    · exact confined_refused s _
    · split
      · exact confined_refused s _
      · next hr =>
        have reserved (u : State) : ControlKept u { u with reservation := some (readReg s rs1) } := ⟨rfl, rfl, rfl⟩
        exact retireWrite_confined ((memRead_controlKept hr).trans (reserved _)) _ _ _

theorem execScW_confined (rd rs2 rs1 : Reg) (aq rl : BitVec 1) (s : State) :
    Confined s (execScW rd rs2 rs1 aq rl s) := by
  have cleared : ControlKept s { s with reservation := none } := ⟨rfl, rfl, rfl⟩
  unfold execScW
  split
  · exact confined_exception (exceptionEntry_takes _ _ s)
  · split
    · exact confined_refused s _
    · split
      · split
        · exact confined_refused s _
        · next hw => exact retireWrite_confined (cleared.trans (memWrite_controlKept hw)) _ _ _
      · exact retireWrite_confined cleared _ _ _

/-! ## System instructions in User Mode -/

/-- What the check of R289 lets through in User Mode is a read of a user-mode register. -/
theorem csrAllowed_user_read {s : State} {n : CsrName} {w : Bool} (hp : s.priv = .U) (h : csrAllowed s n w = true) :
    csrAttr n = .uro ∧ w = false := by
  have attr : csrAttr n = .uro := by
    by_contra hidden
    rw [csrAllowed_user hp (.inl hidden)] at h
    cases h
  refine ⟨attr, ?_⟩
  cases w with
  | false => rfl
  | true => rw [csrAllowed_readOnly (by rw [attr]; exact CsrAttr.noConfusion)] at h; cases h

theorem csrInstr_confined {s : State} (hp : s.priv = .U) (fn : CsrFn) (src : CsrSrc) (rd : Reg) (a : BitVec 12)
    (w : Word) : Confined s (csrInstr fn src rd a w s) := by
  unfold csrInstr
  split
  · exact confined_exception (exceptionEntry_takes _ _ s)
  · next n _ =>
    split
    · next allowed =>
      obtain ⟨attr, reads⟩ := csrAllowed_user_read hp allowed
      cases n with
      | reg r =>
        simp only [csrAccess_read reads]
        exact retireWrite_confined (.refl s) _ _ _
      | op o => cases attr
    · exact confined_exception (exceptionEntry_takes _ _ s)

theorem mret_confined {s : State} (hp : s.priv = .U) : Confined s (exec .mret s) := by
  rw [mret_exec_user hp]
  exact confined_exception (exceptionEntry_takes _ _ s)

/-! ## Every instruction -/

/-- In User Mode every instruction but `wfi`, which sleeps, is confined. -/
theorem exec_confined {i : Instr} {s : State} (hp : s.priv = .U) (hi : i ≠ .wfi) : Confined s (exec i s) := by
  cases i with
  | lui | auipc | addi | slti | sltiu | xori | ori | andi | slli | srli | srai | add | sub | sll | slt | sltu | xor
  | srl | sra | or | and | mul | mulh | mulhsu | mulhu | div | divu | rem | remu | cAddi4spn | cAddi | cLi | cAddi16sp
  | cLui | cSrli | cSrai | cAndi | cSub | cXor | cOr | cAnd | cSlli | cMv | cAdd =>
    exact retireWrite_confined (.refl s) _ _ _
  | beq | bne | blt | bge | bltu | bgeu | cBeqz | cBnez | cJ | cJr | fence | cNop =>
    exact retireTo_confined (.refl s) _
  | jal | jalr | cJal | cJalr => exact retireTo_confined (setReg_controlKept _ _ s) _
  | lb | lh | lw | lbu | lhu | cLw | cLwsp => exact loadOp_confined _ _ _ _ _ s
  | sb | sh | sw | cSw | cSwsp => exact storeOp_confined _ _ _ _ s
  | fenceI => exact retireTo_confined (s := s) (s' := { s with stale := [] }) ⟨rfl, rfl, rfl⟩ _
  | ecall => exact confined_exception (environmentCall_takes s)
  | ebreak | cEbreak => exact confined_exception (breakpoint_takes s)
  | mret => exact mret_confined hp
  | wfi => exact absurd rfl hi
  | csrrw | csrrs | csrrc | csrrwi | csrrsi | csrrci => exact csrInstr_confined hp _ _ _ _ _
  | lrW rd rs1 aq rl => exact execLrW_confined rd rs1 aq rl s
  | scW rd rs2 rs1 aq rl => exact execScW_confined rd rs2 rs1 aq rl s
  | amoswapW | amoaddW | amoxorW | amoandW | amoorW | amominW | amomaxW | amominuW | amomaxuW =>
    exact amoOp_confined _ _ _ _ s

/-- Asleep or not at its end, `wfi` completes in its mode (R310). -/
theorem wfi_completes {s t : State} (ht : exec .wfi s = .next t) : t.priv = s.priv ∧ OnlyCounted s t := by
  obtain ⟨awake, asleep⟩ := wfiResult s
  by_cases h : s.busErr.pending = true ∨ WakeCondition s
  · obtain ⟨t', ht', computes⟩ := awake h
    cases ht.symm.trans ht'
    exact ⟨computes.priv, computes.csrs⟩
  · rw [not_or, Bool.not_eq_true] at h
    obtain ⟨noError, noWake⟩ := h
    obtain ⟨t', ht', computes⟩ := asleep noError noWake
    cases ht.symm.trans ht'
    exact ⟨computes.priv, ⟨computes.csrs.count, computes.csrs.others⟩⟩

/-- An instruction in User Mode stays there and changes no CSR but `minstret`, or takes an exception (R402). -/
theorem exec_user {i : Instr} {s t : State} (hp : s.priv = .U) (ht : exec i s = .next t) :
    (t.priv = .U ∧ OnlyCounted s t ∧ (i ≠ .wfi → t.sleeping = s.sleeping)) ∨
      ∃ code tval, TakesException s t code tval := by
  by_cases hi : i = .wfi
  · subst hi
    obtain ⟨priv, csrs⟩ := wfi_completes ht
    exact .inl ⟨priv.trans hp, csrs, fun h => absurd rfl h⟩
  · exact (exec_confined hp hi t ht).imp_left fun completes =>
      ⟨completes.priv.trans hp, completes.csrs, fun _ => completes.sleeping⟩

/-! ## The step -/

/-- Sampling the inputs does not change the mode. -/
theorem sampleInputs_priv (s : State) : (sampleInputs s).priv = s.priv := by
  show (((advanceCycles (takeInputs s)).now.busWrites.foldl busWrite (advanceCycles (takeInputs s)))).priv = _
  rw [busWrites_eq]; simp

/-- A bus error taken as an exception is that exception, taken in the state whose record is cleared (R418). -/
theorem busErrorException_takes (b : State) :
    TakesException { b with busErr := (busErrorException b).busErr } (busErrorException b)
      (if b.busErr.isStore then 7#12 else 5#12) b.busErr.addr :=
  exceptionEntry_takes _ _ { b with busErr := { b.busErr with pending := false } }

/-- MINHV, the ECLIC and the recorded bus error are nothing that taking an interrupt is stated in. -/
theorem TakesInterrupt.adjusted {s t : State} {r : Candidate} {entry : Word} (h : TakesInterrupt s t r entry)
    (minhv : Bool) (e : Eclic) (be : BusErr) :
    TakesInterrupt s { setMinhv minhv t with eclic := e, busErr := be } r entry := by
  obtain ⟨⟨mepc, mstatus, msubm, priv, reservation, regs, ⟨bytes, stale⟩, csrs⟩, stack, interrupt, exccode, mpil, mil,
    mtval, pc⟩ := h
  obtain ⟨epc2, epc1, cause2, cause1, status2, status1⟩ := stack
  obtain ⟨mtvec, mtvt, mscratch, mcycle, minstret, mcounteren, inhibitCy, inhibitIr, nmiCauseFff, commonEntry, mtvt2en,
    sleepvalue, wfe⟩ := csrs
  exact ⟨⟨mepc, mstatus, msubm, priv, reservation, regs, ⟨bytes, stale⟩, ⟨mtvec, mtvt, mscratch, mcycle, minstret,
    mcounteren, inhibitCy, inhibitIr, nmiCauseFff, commonEntry, mtvt2en, sleepvalue, wfe⟩⟩,
    ⟨epc2, epc1, cause2, cause1, status2, status1⟩, interrupt, exccode, mpil, mil, mtval, pc⟩

/-- An interrupt entry takes the interrupt, and with it the exception of a vector read that fails (R472, R479). -/
theorem interruptEntry_enters {b : State} {r : Candidate} (due : InterruptDue b r) :
    EntersMachineMode b (interruptEntry r b) := by
  cases hv : r.shv with
  | false =>
    rw [interruptEntry_common hv]
    exact .interrupt r due _ (interruptUpdates_takes r _ b)
  | true =>
    cases hr : vectorRead b r.id with
    | some v =>
      rw [interruptEntry_vectored hv hr]
      exact .interrupt r due _ ((interruptUpdates_takes r (clearBit0 v) b).adjusted false _ _)
    | none =>
      rw [interruptEntry_failed hv hr]
      have taken := (interruptUpdates_takes r (interruptUpdates r b).csr.mepc b).adjusted true b.eclic b.busErr
      exact .vectorFault r due _ _ _ taken (exceptionEntry_takes 1#12 (vectorAddress b r.id) _)

/-- Where nothing is due, a step in User Mode leaves it by an exception: of the fetch, or of the instruction. -/
theorem fetchExecute_enters {b t : State} (hp : b.priv = .U) (ht : fetchExecute b = .next t) (hm : t.priv = .M)
    (nothing : NothingDue b) : EntersMachineMode b t := by
  unfold fetchExecute at ht
  split at ht
  · cases ht
    exact .exception nothing _ _ (exceptionEntry_takes _ _ b)
  · split at ht
    · cases ht
      exact .exception nothing _ _ (exceptionEntry_takes _ _ b)
    · obtain ⟨user, -, -⟩ | ⟨code, tval, taken⟩ := exec_user hp ht
      · rw [user] at hm
        cases hm
      · exact .exception nothing code tval taken

/-- The step of an awake hart, in the order of R400. -/
theorem stepAwake_enters {b t : State} (hp : b.priv = .U) (ht : stepAwake b = .next t) (hm : t.priv = .M) :
    EntersMachineMode b t := by
  unfold stepAwake at ht
  split at ht
  · next nmi =>
    cases ht
    exact .nmi ((nmiTakeable_iff b).1 nmi) (nmiEntry_takes b)
  · next noNmi =>
    rw [nmiTakeable_iff] at noNmi
    split at ht
    · next busError =>
      cases ht
      exact .busError ((busErrorTakeable_iff b).1 busError) _ _ (busErrorException_takes b)
    · next noBusError =>
      rw [busErrorTakeable_iff] at noBusError
      split at ht
      · next r request =>
        split at ht
        · cases ht
          exact interruptEntry_enters ⟨(takeableInterrupt_iff b r).1 request, noNmi, noBusError⟩
        · cases ht
      · next noRequest =>
        refine fetchExecute_enters hp ht hm ⟨noNmi, noBusError, fun r due => ?_⟩
        rw [← takeableInterrupt_iff, noRequest] at due
        cases due

/-- Settles O4: an instruction is confined by `exec_user`; a step that sleeps on stays in its mode, and one of an awake
hart does what is due at its boundary. -/
theorem userModeIsConfined : Obligations.UserModeIsConfined := by
  refine ⟨fun i s t hp ht => exec_user hp ht, fun s t hp ht hm => ?_⟩
  rw [← sampleInputs_priv] at hp
  change hartStep s = _ at ht
  unfold hartStep at ht
  split at ht
  · cases ht
    rw [hp] at hm
    cases hm
  · exact stepAwake_enters (b := atBoundary s) hp ht hm

end Sys2Proof.Machine
end

section
/-! PROOFS. Multiply and divide (spec/44_m_muldiv.md R320 to R330). The model computes with exact integers; the rules speak
of halves of a 64-bit product and of quotients of words. Both are `BitVec.ofInt` of the same integer, and on words the
model's quotients and remainders are the library's `sdiv`, `srem`, `/` and `%`, but for a quotient by zero. -/

namespace Sys2Proof.Machine

/-! ## Halves of a product (R321 to R324) -/

theorem extractLow_ofInt (x : Int) : (BitVec.ofInt 64 x).extractLsb' 0 32 = BitVec.ofInt 32 x := by
  apply BitVec.eq_of_toNat_eq
  rw [BitVec.extractLsb'_toNat, BitVec.toNat_ofInt, BitVec.toNat_ofInt, Nat.shiftRight_zero]
  omega

/-- Bits 63:32 are those of the exact integer, of whatever size and sign. -/
theorem extractHigh_ofInt (x : Int) : (BitVec.ofInt 64 x).extractLsb' 32 32 = highWord x := by
  apply BitVec.eq_of_toNat_eq
  rw [highWord, BitVec.extractLsb'_toNat, BitVec.toNat_ofInt, BitVec.toNat_ofInt, Nat.shiftRight_eq_div_pow]
  omega

theorem signExtend_eq_ofInt (a : Word) : a.signExtend 64 = BitVec.ofInt 64 a.toInt := rfl

theorem zeroExtend_eq_ofInt (a : Word) : a.zeroExtend 64 = BitVec.ofInt 64 a.toNat := by
  rw [BitVec.ofInt_natCast, BitVec.ofNat_toNat]

theorem extractLow_mul_signed (a b : Word) : (a.signExtend 64 * b.signExtend 64).extractLsb' 0 32 = a * b := by
  rw [signExtend_eq_ofInt, signExtend_eq_ofInt, ← BitVec.ofInt_mul, extractLow_ofInt, BitVec.ofInt_mul,
    BitVec.ofInt_toInt, BitVec.ofInt_toInt]

theorem highWord_mul_signed (a b : Word) :
    highWord (a.toInt * b.toInt) = (a.signExtend 64 * b.signExtend 64).extractLsb' 32 32 := by
  rw [signExtend_eq_ofInt, signExtend_eq_ofInt, ← BitVec.ofInt_mul, extractHigh_ofInt]

theorem highWord_mul_signed_unsigned (a b : Word) :
    highWord (a.toInt * b.toNat) = (a.signExtend 64 * b.zeroExtend 64).extractLsb' 32 32 := by
  rw [signExtend_eq_ofInt, zeroExtend_eq_ofInt, ← BitVec.ofInt_mul, extractHigh_ofInt]

theorem highWord_mul_unsigned (a b : Word) :
    highWord (a.toNat * b.toNat) = (a.zeroExtend 64 * b.zeroExtend 64).extractLsb' 32 32 := by
  rw [zeroExtend_eq_ofInt, zeroExtend_eq_ofInt, ← BitVec.ofInt_mul, extractHigh_ofInt]

/-- Settles O26: each result is a half of the exact product; the low half does not depend on the signs. -/
theorem multiplyResults : Obligations.MultiplyResults := by
  rintro s rd rs1 rs2 _ _ rfl rfl
  exact ⟨runsTo_of_retireWrite rfl (extractLow_mul_signed _ _).symm,
    runsTo_of_retireWrite rfl (highWord_mul_signed _ _),
    runsTo_of_retireWrite rfl (highWord_mul_signed_unsigned _ _),
    runsTo_of_retireWrite rfl (highWord_mul_unsigned _ _)⟩

/-! ## Quotients and remainders (R325 to R329) -/

theorem toInt_eq_zero_iff (b : Word) : b.toInt = 0 ↔ b = 0#32 := BitVec.toInt_inj (y := 0#32)

theorem toNat_eq_zero_iff (b : Word) : b.toNat = 0 ↔ b = 0#32 := BitVec.toNat_inj (y := 0#32)

/-- The overflow of R325, on the integers and on the words. -/
theorem divOverflow_iff (a b : Word) :
    (a.toInt = -2 ^ 31 ∧ b.toInt = -1) ↔ (a = 0x80000000#32 ∧ b = 0xFFFFFFFF#32) :=
  and_congr (BitVec.toInt_inj (y := 0x80000000#32)) (BitVec.toInt_inj (y := 0xFFFFFFFF#32))

/-- Away from the overflow the quotient of the signed values fits a word. -/
theorem toInt_sdiv_of_not_overflow {a b : Word} (h : ¬ (a = 0x80000000#32 ∧ b = 0xFFFFFFFF#32)) :
    (a.sdiv b).toInt = a.toInt.tdiv b.toInt :=
  BitVec.toInt_sdiv_of_ne_or_ne a b (not_and_or.mp h)

/-- Taken modulo 2^32 the quotient of the signed values is that of the words, on overflow too. -/
theorem ofInt_tdiv (a b : Word) : BitVec.ofInt 32 (a.toInt.tdiv b.toInt) = a.sdiv b := by
  apply BitVec.eq_of_toInt_eq
  rw [BitVec.toInt_ofInt, BitVec.toInt_sdiv]

theorem ofInt_tmod (a b : Word) : BitVec.ofInt 32 (a.toInt.tmod b.toInt) = a.srem b := by
  rw [← BitVec.toInt_srem, BitVec.ofInt_toInt]

theorem divSigned_zero (a : Word) : divSigned a 0#32 = 0xFFFFFFFF#32 := rfl

theorem divSigned_of_ne_zero {a b : Word} (hb : b ≠ 0#32) : divSigned a b = a.sdiv b := by
  simp only [divSigned, toInt_eq_zero_iff, divOverflow_iff, if_neg hb]
  split
  · next overflow =>
    obtain ⟨rfl, rfl⟩ := overflow
    exact BitVec.intMin_sdiv_neg_one.symm
  · exact ofInt_tdiv a b

theorem remSigned_eq_srem (a b : Word) : remSigned a b = a.srem b := by
  simp only [remSigned, toInt_eq_zero_iff, divOverflow_iff, ← Int.tmod_def, ofInt_tmod]
  split
  · next zero => rw [zero, BitVec.srem_zero]
  · split
    · next overflow =>
      obtain ⟨rfl, rfl⟩ := overflow
      decide
    · rfl

theorem divUnsigned_zero (a : Word) : divUnsigned a 0#32 = 0xFFFFFFFF#32 := rfl

theorem divUnsigned_of_ne_zero {a b : Word} (hb : b ≠ 0#32) : divUnsigned a b = a / b := by
  rw [divUnsigned, if_neg (mt (toNat_eq_zero_iff b).mp hb), ← BitVec.toNat_udiv, BitVec.ofNat_toNat, BitVec.setWidth_eq]

theorem remUnsigned_eq_umod (a b : Word) : remUnsigned a b = a % b := by
  simp only [remUnsigned, toNat_eq_zero_iff, ← BitVec.toNat_umod, BitVec.ofNat_toNat, BitVec.setWidth_eq]
  split
  · next zero => rw [zero, BitVec.umod_zero]
  · rfl

/-- `dividend = divisor * quotient + remainder` modulo 2^32 (R325): the equation of the signed values. -/
theorem mul_divSigned_add_remSigned (a b : Word) : b * divSigned a b + remSigned a b = a := by
  rw [remSigned_eq_srem]
  by_cases hb : b = 0#32
  · rw [hb, BitVec.srem_zero, BitVec.zero_mul, BitVec.zero_add]
  · calc b * divSigned a b + a.srem b
        = BitVec.ofInt 32 (b.toInt * a.toInt.tdiv b.toInt + a.toInt.tmod b.toInt) := by
          rw [BitVec.ofInt_add, BitVec.ofInt_mul, BitVec.ofInt_toInt, ofInt_tdiv, ofInt_tmod, divSigned_of_ne_zero hb]
      _ = a := by rw [Int.mul_tdiv_add_tmod, BitVec.ofInt_toInt]

/-- `dividend = divisor * quotient + remainder` modulo 2^32 (R325): the equation of the unsigned values. -/
theorem mul_divUnsigned_add_remUnsigned (a b : Word) : b * divUnsigned a b + remUnsigned a b = a := by
  rw [remUnsigned_eq_umod]
  by_cases hb : b = 0#32
  · rw [hb, BitVec.umod_zero, BitVec.zero_mul, BitVec.zero_add]
  · apply BitVec.eq_of_toNat_eq
    rw [divUnsigned_of_ne_zero hb, BitVec.toNat_add, BitVec.toNat_mul, BitVec.toNat_udiv, BitVec.toNat_umod,
      Nat.mod_add_mod, Nat.div_add_mod, Nat.mod_eq_of_lt a.isLt]

/-- Settles O27: the results are the model's quotients and remainders, which are the library's; only a quotient by zero
and the signed overflow are cases of their own. -/
theorem divisionResults : Obligations.DivisionResults := by
  rintro s rd rs1 rs2 _ _ rfl rfl
  refine ⟨divSigned _ _, remSigned _ _, divUnsigned _ _, remUnsigned _ _, runsTo_of_retireWrite rfl rfl,
    runsTo_of_retireWrite rfl rfl, runsTo_of_retireWrite rfl rfl, runsTo_of_retireWrite rfl rfl,
    (mul_divSigned_add_remSigned _ _).symm, (mul_divUnsigned_add_remUnsigned _ _).symm, ?_, ?_, ?_, ?_⟩
  · intro zero
    rw [zero, remSigned_eq_srem, remUnsigned_eq_umod]
    exact ⟨divSigned_zero _, BitVec.srem_zero, divUnsigned_zero _, BitVec.umod_zero⟩
  · intro least minusOne
    rw [least, minusOne]
    decide
  · intro nonzero noOverflow
    rw [divSigned_of_ne_zero nonzero, remSigned_eq_srem]
    exact ⟨toInt_sdiv_of_not_overflow noOverflow, BitVec.toInt_srem _ _⟩
  · intro nonzero
    rw [divUnsigned_of_ne_zero nonzero, remUnsigned_eq_umod]
    exact ⟨BitVec.toNat_udiv, BitVec.toNat_umod⟩

end Sys2Proof.Machine
end

section
/-! PROOFS. The AMOs on RAM (spec/45_a_atomic.md R343 to R351), from the rules for reads and writes by place. -/

namespace Sys2Proof.Machine

/-- Settles O57: the read leaves the state alone, so the write stores what the operation makes of the word there and of
`x[rs2]`, and beside it `rd` alone changes. -/
theorem atomicUpdates : Obligations.AtomicUpdates := by
  intro s i rd rs2 rs1 f a hi ha hm place aligned
  have memory : inMemory s a := .inl place
  obtain ⟨mem, stale, hw, written⟩ :=
    memWrite_ram_bytes place hm (n := 4) (by decide) (f (wordAt s a) (readReg s rs2))
  have completes := amo_computes hi ha aligned (not_isDevice_of (.inl memory)) (memRead_memory memory 4) hw
  exact completes.imp fun _ h => h.stores written

end Sys2Proof.Machine
end

section
/-! PROOFS. The compressed computational and control transfer instructions (spec/46_c_compressed.md R363, R366 to R382,
R384, R385, R387, R388). Each has the effect of its expansion with a length of two bytes (R362), so the rules for register
writes, branches and jumps apply; what is added here is completion at an address without a register write, for `c.nop`,
`c.j` and `c.jr`. -/

namespace Sys2Proof.Machine

/-- An instruction that only goes on at `w` computes nothing, in whatever terms `next` that address is said. -/
theorem runsTo_of_retireTo {i : Instr} {s : State} {w next : Word} (hx : exec i s = retireTo w s) (hw : w = next) :
    RunsTo i s (fun t => Computes s t 0#5 0#32 next) := by
  obtain ⟨t, ht, computes⟩ := retireTo_computes w s
  exact ⟨t, hx.trans ht, hw ▸ computes⟩

/-- Settles O59: `c.nop` writes no register, the others one; the results are the model's own terms, since `cReg` of a
three-bit field `f` is x(8 + f) (R361) and each immediate is the extension its rule names (R170). -/
theorem compressedResults : Obligations.CompressedResults := by
  rintro s rd rs2 crd crs2 nz8 i6 sh _ _ _ rfl rfl rfl
  have nop : exec (.cNop i6) s = retireTo (s.pc + 2#32) s := rfl
  exact ⟨runsTo_of_retireWrite rfl rfl, runsTo_of_retireTo nop rfl, runsTo_of_retireWrite rfl rfl,
    runsTo_of_retireWrite rfl rfl, runsTo_of_retireWrite rfl rfl, runsTo_of_retireWrite rfl rfl,
    runsTo_of_retireWrite rfl rfl, runsTo_of_retireWrite rfl rfl, runsTo_of_retireWrite rfl rfl,
    runsTo_of_retireWrite rfl rfl, runsTo_of_retireWrite rfl rfl, runsTo_of_retireWrite rfl rfl,
    runsTo_of_retireWrite rfl rfl, runsTo_of_retireWrite rfl rfl, runsTo_of_retireWrite rfl rfl,
    runsTo_of_retireWrite rfl rfl⟩

/-- Settles O60: `c.j` and `c.jr` only go to their target, `c.jal` and `c.jalr` also link; the target of `c.jr` and
`c.jalr` is the old register with bit 0 clear; `c.beqz` branches on the comparison with zero, `c.bnez` on its negation. -/
theorem compressedControlResults : Obligations.CompressedControlResults := by
  rintro s rs1 crs1 o11 o8 _ _ rfl rfl
  have evenTarget := clearBit0_eq (readReg s rs1)
  exact ⟨runsTo_of_retireTo rfl rfl, runsTo_of_jumpOp rfl rfl, runsTo_of_retireTo rfl evenTarget,
    runsTo_of_jumpOp rfl evenTarget, runsTo_of_branchOp rfl beq_iff_eq, runsTo_of_branchOp_not rfl bne_iff_ne⟩

end Sys2Proof.Machine
end

section
/-! PROOFS. Machine Mode (spec/60_exceptions.md R402): no instruction but `mret` leaves it. Completion keeps the mode
and a trap entry sets it to Machine; loads, stores and atomic instructions do one or the other (`Confined`), and the
CSR operations, which User Mode hardly reaches, are gone through here. -/

namespace Sys2Proof.Machine

/-- If the outcome is a next state, it is in Machine Mode. -/
def NextInMachineMode (r : Result) : Prop := ∀ t, r = .next t → t.priv = .M

theorem nextInMachineMode_next {t : State} (h : t.priv = .M) : NextInMachineMode (.next t) := by
  rintro _ ⟨⟩; exact h

theorem nextInMachineMode_refused (r : Refusal) : NextInMachineMode (.refused r) := by
  intro _ h; cases h

theorem nextInMachineMode_exception (code : BitVec 12) (tval epc : Word) (s : State) :
    NextInMachineMode (.next (exceptionEntry code tval epc s)) :=
  nextInMachineMode_next rfl

theorem retireTo_inMachineMode {s : State} (h : s.priv = .M) (next : Word) : NextInMachineMode (retireTo next s) :=
  nextInMachineMode_next ((countRetired_priv s).trans h)

theorem retireWrite_inMachineMode {s : State} (h : s.priv = .M) (rd : Reg) (v len : Word) :
    NextInMachineMode (retireWrite rd v len s) :=
  retireTo_inMachineMode ((setReg_priv rd v s).trans h) _

/-- A confined instruction that begins in Machine Mode ends there. -/
theorem Confined.nextInMachineMode {s : State} {r : Result} (h : Confined s r) (hp : s.priv = .M) :
    NextInMachineMode r := by
  intro t ht
  obtain completes | ⟨code, tval, taken⟩ := h t ht
  · exact completes.priv.trans hp
  · exact taken.entered.priv

/-! ## CSR instructions -/

theorem csrAccess_inMachineMode {s : State} (hp : s.priv = .M) (fn : CsrFn) (src : CsrSrc) (rd : Reg) (r : CsrReg) :
    NextInMachineMode (csrAccess fn src rd r s) := by
  have counted : (if csrWrites fn src && isInstret r then s else countRetired s).priv = .M := by
    split <;> simp [hp]
  have written (v : Word) (u : State) (hu : u.priv = .M) :
      (if csrWrites fn src then csrWrite r v u else u).priv = .M := by
    split <;> simp [hu]
  exact nextInMachineMode_next ((setReg_priv _ _ _).trans (written _ _ counted))

theorem mnxtiOp_inMachineMode {s : State} (hp : s.priv = .M) (fn : CsrFn) (src : CsrSrc) (rd : Reg) :
    NextInMachineMode (mnxtiOp fn src rd s) := by
  have status : (mnxtiStatus fn src s).priv = .M := by simp [hp]
  unfold mnxtiOp
  split
  · exact retireWrite_inMachineMode status _ _ _
  · split
    · exact nextInMachineMode_exception _ _ _ s
    · refine retireWrite_inMachineMode ?_ _ _ _
      split
      · exact status
      · exact hp

theorem jalmnxtiOp_inMachineMode {s : State} (hp : s.priv = .M) (rd : Reg) : NextInMachineMode (jalmnxtiOp rd s) := by
  unfold jalmnxtiOp
  split
  · exact retireTo_inMachineMode hp _
  · next r _ =>
    split
    · exact nextInMachineMode_exception _ _ _ s
    · exact retireTo_inMachineMode ((setReg_priv rd s.pc (setMie (claimInterrupt r s))).trans hp) _

theorem scratchSwap_inMachineMode {s : State} (hp : s.priv = .M) (swap : Bool) (rd rs1 : Reg) :
    NextInMachineMode (scratchSwap swap rd rs1 s) := by
  unfold scratchSwap
  split
  · exact retireWrite_inMachineMode (s := { s with csr := { s.csr with mscratch := readReg s rs1 } }) hp _ _ _
  · exact retireWrite_inMachineMode hp _ _ _

theorem pushOp_inMachineMode {s : State} (hp : s.priv = .M) (v : Word) (rd : Reg) (uimm : BitVec 5) :
    NextInMachineMode (pushOp v rd uimm s) := by
  unfold pushOp
  split
  · exact nextInMachineMode_exception _ _ _ s
  · split
    · next s' written =>
      have kept : s'.priv = .M := (memWrite_controlKept written).priv.trans hp
      exact retireTo_inMachineMode ((pushResult_priv rd s').trans kept) _
    · exact nextInMachineMode_refused _

theorem csrOperation_inMachineMode {s : State} (hp : s.priv = .M) (fn : CsrFn) (src : CsrSrc) (rd : Reg) (o : CsrOp) :
    NextInMachineMode (csrOperation fn src rd o s) := by
  cases o with
  | mscratchcsw | mscratchcswl =>
    simp only [csrOperation]
    split
    · exact scratchSwap_inMachineMode hp _ rd _
    · exact nextInMachineMode_refused _
  | mnxti =>
    simp only [csrOperation]
    split
    · exact nextInMachineMode_refused _
    · exact mnxtiOp_inMachineMode hp fn src rd
  | jalmnxti =>
    simp only [csrOperation]
    split
    · exact jalmnxtiOp_inMachineMode hp rd
    · exact nextInMachineMode_refused _
  | pushmsubm | pushmcause | pushmepc =>
    simp only [csrOperation]
    split
    · exact pushOp_inMachineMode hp _ rd _
    · exact nextInMachineMode_refused _

theorem csrInstr_inMachineMode {s : State} (hp : s.priv = .M) (fn : CsrFn) (src : CsrSrc) (rd : Reg) (a : BitVec 12)
    (w : Word) : NextInMachineMode (csrInstr fn src rd a w s) := by
  unfold csrInstr
  split
  · exact nextInMachineMode_exception _ _ _ s
  · split
    · split
      · exact csrAccess_inMachineMode hp fn src rd _
      · exact csrOperation_inMachineMode hp fn src rd _
    · exact nextInMachineMode_exception _ _ _ s

/-! ## Every instruction -/

/-- In Machine Mode every instruction but `mret` ends in Machine Mode. -/
theorem exec_inMachineMode {i : Instr} {s : State} (hp : s.priv = .M) (hi : i ≠ .mret) :
    NextInMachineMode (exec i s) := by
  cases i with
  | lui | auipc | addi | slti | sltiu | xori | ori | andi | slli | srli | srai | add | sub | sll | slt | sltu | xor
  | srl | sra | or | and | mul | mulh | mulhsu | mulhu | div | divu | rem | remu | cAddi4spn | cAddi | cLi | cAddi16sp
  | cLui | cSrli | cSrai | cAndi | cSub | cXor | cOr | cAnd | cSlli | cMv | cAdd =>
    exact retireWrite_inMachineMode hp _ _ _
  | beq | bne | blt | bge | bltu | bgeu | cBeqz | cBnez | cJ | cJr | fence | cNop => exact retireTo_inMachineMode hp _
  | jal | jalr | cJal | cJalr => exact retireTo_inMachineMode ((setReg_priv _ _ s).trans hp) _
  | lb | lh | lw | lbu | lhu | cLw | cLwsp => exact (loadOp_confined _ _ _ _ _ s).nextInMachineMode hp
  | sb | sh | sw | cSw | cSwsp => exact (storeOp_confined _ _ _ _ s).nextInMachineMode hp
  | fenceI => exact retireTo_inMachineMode (s := { s with stale := [] }) hp _
  | ecall | ebreak | cEbreak => exact nextInMachineMode_exception _ _ _ (drawn s)
  | mret => exact absurd rfl hi
  | wfi => exact fun t ht => (wfi_completes ht).1.trans hp
  | csrrw | csrrs | csrrc | csrrwi | csrrsi | csrrci => exact csrInstr_inMachineMode hp _ _ _ _ _
  | lrW rd rs1 aq rl => exact (execLrW_confined rd rs1 aq rl s).nextInMachineMode hp
  | scW rd rs2 rs1 aq rl => exact (execScW_confined rd rs2 rs1 aq rl s).nextInMachineMode hp
  | amoswapW | amoaddW | amoxorW | amoandW | amoorW | amominW | amomaxW | amominuW | amomaxuW =>
    exact (amoOp_confined _ _ _ _ s).nextInMachineMode hp

/-- Settles O5: an instruction other than `mret` would end in Machine Mode. -/
theorem onlyMretEntersUserMode : Obligations.OnlyMretEntersUserMode := by
  intro i s t machine ht user
  by_contra notMret
  exact Priv.noConfusion ((exec_inMachineMode machine notMret t ht).symm.trans user)

end Sys2Proof.Machine
end

section
/-! PROOFS. Sampling the inputs at the start of a step (spec/60_exceptions.md R400, R440, R480 to R482, R490; log 31).
`sampleInputs_eq` lays its parts out in one state; what the writes of other bus masters do to memory and the
reservation is proved write by write, and what the lines do to the sources is `sourceAt_sampleLines`. -/

namespace Sys2Proof.Machine

/-! ## The parts of sampling -/

/-- The inputs of the next step: the next record, quiet after the last (log 8). -/
def nextInput (s : State) : EnvInput := s.future.headD EnvInput.quiet

/-- The state in which other bus masters write: the inputs are taken, the `tx_evt` pulse is over (log 27), and the
cycles are counted. -/
def inputsTaken (s : State) : State :=
  { s with
    now := nextInput s
    future := s.future.tail
    txEvt := false
    csr := { s.csr with mcycle := (advanceCycles (takeInputs s)).csr.mcycle }
    draws := (advanceCycles (takeInputs s)).draws }

/-- The state after their writes. -/
def busWritten (s : State) : State := (nextInput s).busWrites.foldl busWrite (inputsTaken s)

/-- The state in which the lines are sampled: everything else has been. -/
def beforeLines (s : State) : State :=
  { inputsTaken s with
    mem := (busWritten s).mem
    stale := (busWritten s).stale
    reservation := (busWritten s).reservation
    nmiPending := s.nmiPending || ((nextInput s).nmi && !s.nmiPrev)
    nmiPrev := (nextInput s).nmi
    timer := timerTick (nextInput s).ticks s.timer }

theorem takeInputs_eq (s : State) :
    takeInputs s = { s with now := nextInput s, future := s.future.tail, txEvt := false } := by
  unfold takeInputs nextInput
  split <;> simp [*]

/-- Counting cycles changes `mcycle` and the number of draws. -/
theorem advanceCycles_eq (s : State) : advanceCycles s = { s with
    csr := { s.csr with mcycle := (advanceCycles s).csr.mcycle }, draws := (advanceCycles s).draws } := by
  unfold advanceCycles
  split <;> rfl

theorem advanceCycles_takeInputs (s : State) : advanceCycles (takeInputs s) = inputsTaken s := by
  rw [advanceCycles_eq, takeInputs_eq, inputsTaken, takeInputs_eq]

/-- Sampling, laid out: bus writes touch memory, the window and the reservation alone, so the NMI line, the ticks and
the lines are sampled as if there were none. -/
theorem sampleInputs_eq (s : State) : sampleInputs s = sampleLines (beforeLines s) := by
  have written : busWritten s = { inputsTaken s with
      mem := (busWritten s).mem, stale := (busWritten s).stale, reservation := (busWritten s).reservation } :=
    busWrites_eq _ _
  calc sampleInputs s
    _ = sampleLines { sampleNmi (busWritten s) with
          timer := timerTick (sampleNmi (busWritten s)).now.ticks (sampleNmi (busWritten s)).timer } := by
      rw [sampleInputs, advanceCycles_takeInputs]; rfl
    _ = sampleLines (beforeLines s) := by rw [written]; rfl

/-! ## The writes of other bus masters -/

theorem busWrite_cfg (s : State) (w : Word × Byte) : (busWrite s w).cfg = s.cfg := by
  rw [busWrite_eq]

/-- What the first of several writes leaves to the others. -/
theorem lastWritten_cons (w : Word × Byte) (ws : List (Word × Byte)) (a : Word) :
    lastWritten (w :: ws) a = (lastWritten ws a).or (if w.1 = a then some w.2 else none) := by
  unfold lastWritten
  rw [List.reverse_cons, List.find?_append, List.find?_singleton, Option.map_or]
  by_cases h : w.1 = a <;> simp [h]

/-- A byte of RAM holds the last value written to it; every other byte keeps its value (R141). -/
theorem byteAt_busWrites {s : State} (hm : s.mem.wf = true) (hs : s.stale.wf = true) (ws : List (Word × Byte))
    (a : Word) : byteAt (ws.foldl busWrite s) a =
      if placeOf s.cfg a = .ram then (lastWritten ws a).getD (byteAt s a) else byteAt s a := by
  induction ws generalizing s with
  | nil => simp [lastWritten]
  | cons w ws ih =>
    obtain ⟨hm', hs'⟩ := busWrite_wf hm hs w
    rw [List.foldl_cons, ih hm' hs', busWrite_cfg, byteAt_busWrite hm, lastWritten_cons]
    by_cases place : placeOf s.cfg a = .ram
    · by_cases h : w.1 = a
      · subst h
        cases lastWritten ws w.1 <;> simp [place]
      · simp [place, h, Ne.symm h]
    · simp [place]

/-- The contents a fetch may see instead are those from before (R143). -/
theorem fetchSees_busWrites {s : State} (hm : s.mem.wf = true) (hs : s.stale.wf = true) (ws : List (Word × Byte))
    (a : Word) : fetchSees (ws.foldl busWrite s) true a = fetchSees s true a := by
  induction ws generalizing s with
  | nil => rfl
  | cons w ws ih =>
    obtain ⟨hm', hs'⟩ := busWrite_wf hm hs w
    rw [List.foldl_cons, ih hm' hs', fetchSees_busWrite hm hs]

/-- A write of another bus master hits the reservation: it is to a byte of RAM in the reserved word (R146). -/
def HitsReservation (s : State) (w : Word × Byte) : Prop :=
  ∃ r, s.reservation = some r ∧ placeOf s.cfg w.1 = .ram ∧ r.toNat ≤ w.1.toNat ∧ w.1.toNat < r.toNat + 4

/-- One write ends the reservation it hits. -/
theorem reservation_busWrite_hit {s : State} {w : Word × Byte} (h : HitsReservation s w) :
    (busWrite s w).reservation = none := by
  obtain ⟨r, hr, place, low, high⟩ := h
  rw [reservation_busWrite, if_pos place]
  simp [reservationAfter, hr, high, Nat.lt_succ_of_le low]

/-- One write keeps the reservation it does not hit. -/
theorem reservation_busWrite_kept {s : State} {w : Word × Byte} (h : ¬ HitsReservation s w) :
    (busWrite s w).reservation = s.reservation := by
  rw [reservation_busWrite]
  split_ifs with place
  · unfold reservationAfter
    split
    · next r hr =>
      refine (if_neg fun ⟨high, low⟩ => h ⟨r, hr, place, Nat.le_of_lt_succ low, high⟩).trans hr.symm
    · next hr => exact hr.symm
  · rfl

/-- What a write hits depends on the reservation and the address map alone. -/
theorem hitsReservation_congr {s t : State} (cfg : t.cfg = s.cfg) (reservation : t.reservation = s.reservation)
    (w : Word × Byte) : HitsReservation t w ↔ HitsReservation s w := by
  unfold HitsReservation
  rw [cfg, reservation]

/-- Writes that do not hit the reservation keep it. -/
theorem reservation_busWrites_kept {s : State} {ws : List (Word × Byte)} (h : ∀ w ∈ ws, ¬ HitsReservation s w) :
    (ws.foldl busWrite s).reservation = s.reservation := by
  induction ws generalizing s with
  | nil => rfl
  | cons w ws ih =>
    have first := reservation_busWrite_kept (h w List.mem_cons_self)
    rw [List.foldl_cons, ih, first]
    intro v hv
    rw [hitsReservation_congr (busWrite_cfg s w) first]
    exact h v (List.mem_cons_of_mem w hv)

/-- A reservation that is gone stays gone. -/
theorem reservation_busWrites_none {s : State} (h : s.reservation = none) (ws : List (Word × Byte)) :
    (ws.foldl busWrite s).reservation = none := by
  rw [reservation_busWrites_kept, h]
  rintro w - ⟨r, hr, -⟩
  cases h.symm.trans hr

/-- One write that hits the reservation is enough to end it. -/
theorem reservation_busWrites_hit {s : State} {ws : List (Word × Byte)} {w : Word × Byte} (hw : w ∈ ws)
    (h : HitsReservation s w) : (ws.foldl busWrite s).reservation = none := by
  induction ws generalizing s with
  | nil => cases hw
  | cons v ws ih =>
    rw [List.foldl_cons]
    by_cases hv : HitsReservation s v
    · exact reservation_busWrites_none (reservation_busWrite_hit hv) ws
    · obtain rfl | hw := List.mem_cons.1 hw
      · exact absurd h hv
      · exact ih hw ((hitsReservation_congr (busWrite_cfg s v) (reservation_busWrite_kept hv) w).2 h)

/-- The writes of other bus masters do what R141, R143 and R146 say. -/
theorem busWrites_busWritten {s : State} (hm : s.mem.wf = true) (hs : s.stale.wf = true) (ws : List (Word × Byte)) :
    BusWritten s (ws.foldl busWrite s) ws where
  written a b place last := by rw [byteAt_busWrites hm hs, if_pos place, last]; rfl
  kept a h := by
    rw [byteAt_busWrites hm hs]
    split_ifs with place
    · rw [h.resolve_left (not_not_intro place)]; rfl
    · rfl
  old := fetchSees_busWrites hm hs ws
  broken r w hr hw place low high := reservation_busWrites_hit hw ⟨r, hr, place, low, high⟩
  held h := reservation_busWrites_kept fun w hw ⟨r, hr, place, inWord⟩ => h r w hr hw place inWord

/-- Settles O10: the state that `sampleInputs_eq` lays out shows its fields; `mcycle` is the advance's, and memory and
the reservation are what the bus writes leave. -/
theorem samplingFrame : Obligations.SamplingFrame := by
  intro s
  obtain ⟨grows, stands⟩ := advanceCycles_mcycle (takeInputs s)
  rw [takeInputs_csr] at grows stands
  have unwritten (silent : (nextInput s).busWrites = []) : busWritten s = inputsTaken s := by
    rw [busWritten, silent]; rfl
  rw [sampleInputs_eq]
  refine ⟨rfl, rfl, fun _ => rfl, rfl, stands, grows, rfl, rfl, rfl, rfl, rfl, rfl, rfl, rfl, rfl, rfl, rfl,
    fun silent => ?_, fun hm hs => ?_⟩
  · have mem : (busWritten s).mem = s.mem := by rw [unwritten silent]; rfl
    have stale : (busWritten s).stale = s.stale := by rw [unwritten silent]; rfl
    have reservation : (busWritten s).reservation = s.reservation := by rw [unwritten silent]; rfl
    exact ⟨memoryKept_of mem stale, reservation⟩
  · obtain ⟨written, kept, old, broken, held⟩ :=
      busWrites_busWritten (s := inputsTaken s) hm hs (nextInput s).busWrites
    exact ⟨written, kept, old, broken, held⟩

/-! ## The interrupt lines -/

/-- The timer line, in the terms of R491. -/
theorem timerLine_eq (u : Timer) : timerLine u = decide (u.mtimecmp.toNat ≤ u.mtime.toNat) := by
  rw [timerLine, BitVec.ult, ← decide_not, decide_eq_decide, Nat.not_lt]

/-- What sampling a line does to the registers of its source, by trigger and edge (R482). -/
theorem sampleSource_eq (l : Bool) (q : Source) : sampleSource l q = { q with
    prev := l,
    ip := if q.trig.getLsbD 0 = false then l
      else if q.trig.getLsbD 1 = false ∧ q.prev = false ∧ l = true then true
      else if q.trig.getLsbD 1 = true ∧ q.prev = true ∧ l = false then true
      else q.ip } := by
  unfold sampleSource
  cases level : q.trig.getLsbD 0 with
  | false => simp
  | true =>
    cases falling : q.trig.getLsbD 1 with
    | false => cases q.prev <;> cases l <;> simp
    | true => cases q.prev <;> cases l <;> simp

/-- Settles O11: an existing source samples its line, by its trigger: level, rising edge or falling edge. -/
theorem sourcesAreSampled : Obligations.SourcesAreSampled := by
  intro s i length
  rw [sampleInputs_eq, sourceAt_sampleLines]
  have cfg : (beforeLines s).cfg = s.cfg := rfl
  have sources : sourceAt (beforeLines s).eclic i = sourceAt s.eclic i := rfl
  refine ⟨fun absent => if_neg ?_, ?_⟩
  · rw [cfg, absent]
    exact fun h => Bool.false_ne_true h.2
  · intro present l hl
    have line : irqLine (beforeLines s) i = l := by
      rw [hl, irqLine, timerLine_eq, List.contains_eq_mem]
      rfl
    have index : i < (beforeLines s).eclic.sources.length := length.symm ▸ lt_of_sourceExists present
    rw [if_pos ⟨index, present⟩, line, sources, sampleSource_eq]

end Sys2Proof.Machine
end

section
/-! PROOFS. The step (spec/60_exceptions.md R400): asleep it only samples, and awake it does the first thing due at
its boundary: an NMI, a bus error, an interrupt, or the instruction its parcels decode to. `Laws/Step` says which,
`Laws/Traps` what each entry does. -/

namespace Sys2Proof.Machine

/-! ## Sleep -/

/-- Settles O15: the first branch of the step. -/
theorem sleepLastsUntilWoken : Obligations.SleepLastsUntilWoken := by
  intro s asleep noWake
  have notWoken : wakeCondition (sampleInputs s) = false :=
    Bool.eq_false_iff.2 (mt (wakeCondition_iff _).1 noWake)
  exact if_pos (by rw [sampleInputs_sleeping, asleep, notWoken]; rfl)

/-! ## NMI and bus error -/

/-- Settles O16: the NMI comes first. -/
theorem nmiIsTaken : Obligations.NmiIsTaken := by
  intro s awake due
  refine ⟨nmiEntry (atBoundary s), ?_, nmiEntry_takes _⟩
  rw [step_awake awake]
  exact if_pos ((nmiTakeable_iff _).2 due)

/-- Settles O17: the bus error comes after the NMI. -/
theorem busErrorIsTaken : Obligations.BusErrorIsTaken := by
  rintro s _ rfl awake noNmi due
  refine ⟨busErrorException (atBoundary s), ?_, rfl, busErrorException_takes _⟩
  rw [step_awake awake]
  exact (if_neg (mt (nmiTakeable_iff _).1 noNmi)).trans (if_pos ((busErrorTakeable_iff _).2 due))

/-! ## Interrupts -/

/-- In the ECLIC mode an awake hart enters the interrupt that is due (R471). -/
theorem step_enters {s : State} {r : Candidate} (awake : Awake s) (due : InterruptDue (atBoundary s) r)
    (mode : (atBoundary s).csr.mtvec.extractLsb' 0 6 = 3#6) :
    step s = .next (interruptEntry r (atBoundary s)) := by
  rw [step_interrupt awake due]
  exact if_pos (beq_iff_eq.2 mode)

/-- Settles O21: any other mode is the default mode. -/
theorem defaultInterruptModeStops : Obligations.DefaultInterruptModeStops := by
  intro s r awake due mode
  rw [step_interrupt awake due]
  exact if_neg (mt beq_iff_eq.1 mode)

/-- The common entry address, in the terms of R477. -/
theorem commonEntryAddress_eq (k : Csrs) :
    commonEntryAddress k = if k.mtvt2en then k.commonEntry ++ 0#2 else align4 k.mtvec := by
  rw [commonEntryAddress, entryAddress_eq]

/-- Settles O18: the assignments of R472 and the jump to the common entry are all the step makes. -/
theorem commonInterruptEntry : Obligations.CommonInterruptEntry := by
  rintro s _ r rfl awake due shv mode
  refine ⟨_, step_enters awake due mode, ?_⟩
  rw [interruptEntry_common shv, commonEntryAddress_eq]
  exact ⟨interruptUpdates_takes r _ _, rfl, ⟨rfl, rfl, rfl, rfl, rfl, rfl, rfl, rfl, rfl, rfl⟩⟩

/-- Settles O19: the entry is followed by the claim of the source, which `TakesInterrupt` does not speak of. -/
theorem vectoredInterruptEntry : Obligations.VectoredInterruptEntry := by
  rintro s _ r _ rfl awake due shv mode rfl readable
  refine ⟨_, step_enters awake due mode, ?_⟩
  rw [interruptEntry_vectored shv (vectorRead_of_canRead readable), clearBit0_eq]
  exact ⟨(interruptUpdates_takes r _ _).adjusted false _ _, rfl, rfl, rfl,
    ⟨rfl, rfl, rfl, rfl, rfl, rfl, rfl, rfl, rfl, rfl⟩⟩

/-- Settles O20: the exception is taken on the entered state, whose pc counts as the `mepc` the entry left (R479). -/
theorem failedVectorRead : Obligations.FailedVectorRead := by
  rintro s _ r _ rfl awake due shv mode rfl unreadable
  have steps := step_enters awake due mode
  rw [interruptEntry_failed shv (vectorRead_of_not_canRead unreadable)] at steps
  have entered := (interruptUpdates_takes r (interruptUpdates r (atBoundary s)).csr.mepc (atBoundary s)).adjusted true
    (atBoundary s).eclic (atBoundary s).busErr
  exact ⟨_, _, entered, rfl, ⟨rfl, rfl, rfl, rfl, rfl, rfl, rfl, rfl, rfl, rfl⟩, steps,
    exceptionEntry_takes 1#12 (vectorAddress (atBoundary s) r.id) _⟩

/-! ## The instruction fetched -/

/-- Of two parcels, the code fetched is both as a word if the first announces 32 bits, else the first alone (R128). -/
theorem fetch_eq {s : State} (low : CanFetchLow s) (high : isWide (fetchedLow s) = true → CanFetchHigh s) :
    fetch s = .ok (if isWide (fetchedLow s) then .word (fetchedHigh s ++ fetchedLow s) else .half (fetchedLow s)) := by
  cases wide : isWide (fetchedLow s) with
  | true => exact fetch_word low wide (high wide)
  | false => exact fetch_half low wide

/-- What the four bytes of two parcels decode to is what that code decodes to. -/
theorem decodeCode_of_decode {lo hi : Half} {i : Instr} {rest : List Byte}
    (h : decode [lo.extractLsb' 0 8, lo.extractLsb' 8 8, hi.extractLsb' 0 8, hi.extractLsb' 8 8] = .ok (i, rest)) :
    decodeCode (if isWide lo then .word (hi ++ lo) else .half lo) = some i := by
  have word : hi ++ lo.extractLsb' 8 8 ++ lo.extractLsb' 0 8 = hi ++ lo := by
    rw [BitVec.append_assoc, half_of_bytes]
    rfl
  cases wide : isWide lo with
  | true =>
    simp only [decode, half_of_bytes, word, wide, if_true] at h
    split at h
    · next decoded => cases h; exact decoded
    · cases h
  | false =>
    simp only [decode, half_of_bytes, wide, Bool.false_eq_true, if_false] at h
    split at h
    · next decoded => cases h; exact (decodeCode_half wide).trans decoded
    · cases h

/-- In memory the parcel is made of the bytes a fetch sees there. -/
theorem fetchedHalf_inMemory {s : State} {a : Word} (h : inMemory s a) (old : Bool) (d : Half) :
    fetchedHalf s old d a = fetchSees s old (a + 1#32) ++ fetchSees s old a := by
  refine if_neg fun device => ?_
  obtain h | h := h <;> cases device.symm.trans h

/-- Settles O12: the step is the fetch, and its parcels are of the bytes fetches see. -/
theorem stepRunsDecoded : Obligations.StepRunsDecoded := by
  rintro s _ i rest rfl awake nothing low high decoded
  refine ⟨?_, fun place => fetchedHalf_inMemory place _ _, fun place => fetchedHalf_inMemory place _ _,
    fun current a => fetchSees_current current a⟩
  rw [step_executes awake nothing]
  simp only [fetchExecute, fetch_eq low high, decodeCode_of_decode decoded]

end Sys2Proof.Machine
end

section
/-! PROOFS. Arbitration in the ECLIC (spec/60_exceptions.md R484 to R486). The order of R486 is written as a strict
order on candidates; the model's search keeps the greatest of those it has passed, so what it answers is the greatest
of all. -/

namespace Sys2Proof.Machine

/-! ## Level and Priority -/

/-- Settles O23: below the cut the mask of ones decides the bit, from the cut on the `clicintctl` value does. -/
theorem levelAndPriorityBits : Obligations.LevelAndPriorityBits := by
  intro c e q nl k hnl hk
  have eff : nlbitsEff e = nl := hnl.symm
  constructor
  · rw [sourceLevel, eff, BitVec.getLsbD_or, BitVec.getLsbD_and, BitVec.getLsbD_not, getLsbD_onesLow]
    by_cases top : 8 - nl ≤ k
    · simp [top, hk, Nat.not_lt.2 top]
    · simp [top, hk, Nat.not_le.1 top]
  · rw [sourcePriority, eff, BitVec.getLsbD_or, BitVec.getLsbD_shiftLeft, getLsbD_onesLow]
    by_cases low : nl ≤ k
    · simp [low, hk, Nat.not_lt.2 low]
    · simp [low, hk, Nat.not_le.1 low]

/-! ## The order of R486 -/

/-- `a` comes after `b` in the order of R486: by level, then priority, then id, each unsigned. -/
def Candidate.Below (a b : Candidate) : Prop :=
  a.level.toNat < b.level.toNat ∨
    (a.level.toNat = b.level.toNat ∧
      (a.priority.toNat < b.priority.toNat ∨ (a.priority.toNat = b.priority.toNat ∧ a.id < b.id)))

/-- `beats` decides that order. -/
theorem beats_iff (a b : Candidate) : a.beats b = true ↔ b.Below a := by
  simp only [Candidate.beats, Candidate.Below, BitVec.ult, Bool.or_eq_true, Bool.and_eq_true, decide_eq_true_eq,
    beq_iff_eq, ← BitVec.toNat_inj, eq_comm (a := a.level.toNat), eq_comm (a := a.priority.toNat)]

theorem Candidate.Below.trans {a b d : Candidate} (h : a.Below b) (h' : b.Below d) : a.Below d := by
  unfold Candidate.Below at *
  omega

/-- Of two candidates with different ids one comes after the other. -/
theorem below_of_not_below {a b : Candidate} (hid : a.id ≠ b.id) (h : ¬ b.Below a) : a.Below b := by
  unfold Candidate.Below at *
  omega

/-! ## The search for the greatest candidate -/

/-- `o` is the greatest of the candidates in `P`, if there is one. -/
def Greatest (P : Candidate → Prop) : Option Candidate → Prop
  | none => ∀ d, ¬ P d
  | some w => P w ∧ ∀ d, P d → d = w ∨ d.Below w

/-- The better of the greatest of two sets without a common id is the greatest of both together. -/
theorem greatest_betterOf {P Q : Candidate → Prop} {a b : Option Candidate} (ha : Greatest P a) (hb : Greatest Q b)
    (apart : ∀ x y, P x → Q y → x.id ≠ y.id) : Greatest (fun d => P d ∨ Q d) (betterOf a b) := by
  match a, b with
  | none, none => exact fun d hd => hd.elim (ha d) (hb d)
  | none, some y =>
    obtain ⟨hy, others⟩ := hb
    exact ⟨.inr hy, fun d hd => others d (hd.resolve_left (ha d))⟩
  | some x, none =>
    obtain ⟨hx, others⟩ := ha
    exact ⟨.inl hx, fun d hd => others d (hd.resolve_right (hb d))⟩
  | some x, some y =>
    obtain ⟨hx, othersX⟩ := ha
    obtain ⟨hy, othersY⟩ := hb
    have loses {d w v : Candidate} (hd : d = w ∨ d.Below w) (hw : w.Below v) : d = v ∨ d.Below v :=
      .inr (hd.elim (fun h => h ▸ hw) (fun h => h.trans hw))
    simp only [betterOf]
    split_ifs with beats
    · rw [beats_iff] at beats
      exact ⟨.inl hx, fun d hd => hd.elim (othersX d) fun h => loses (othersY d h) beats⟩
    · rw [beats_iff] at beats
      have below := below_of_not_below (apart x y hx hy) beats
      exact ⟨.inr hy, fun d hd => hd.elim (fun h => loses (othersX d h) below) (othersY d)⟩

/-- `d` is the candidate of one of the sources `qs`, numbered from `i` on. -/
def CandidateFrom (c : Config) (e : Eclic) (i : Nat) (qs : List Source) (d : Candidate) : Prop :=
  ∃ k q, qs[k]? = some q ∧ candidate c e (i + k) q = some d

theorem candidateFrom_cons (c : Config) (e : Eclic) (i : Nat) (q : Source) (qs : List Source) (d : Candidate) :
    CandidateFrom c e i (q :: qs) d ↔ candidate c e i q = some d ∨ CandidateFrom c e (i + 1) qs d := by
  have shift (k : Nat) : i + 1 + k = i + (k + 1) := by omega
  constructor
  · rintro ⟨k, p, hp, hd⟩
    cases k with
    | zero => cases hp; exact .inl hd
    | succ k => exact .inr ⟨k, p, hp, shift k ▸ hd⟩
  · rintro (hd | ⟨k, p, hp, hd⟩)
    · exact ⟨0, q, rfl, hd⟩
    · exact ⟨k + 1, p, hp, shift k ▸ hd⟩

/-- The candidate a source makes: it exists, is enabled and pending, and shows number, level, priority and `shv`. -/
theorem candidate_eq_some_iff {c : Config} {e : Eclic} {i : Nat} {q : Source} {d : Candidate} :
    candidate c e i q = some d ↔ (sourceExists c i = true ∧ q.ie = true ∧ q.ip = true) ∧
      d = { id := i, level := sourceLevel c e q, priority := sourcePriority c e q, shv := q.shv } := by
  unfold candidate
  split_ifs with h
  · simp only [Bool.and_eq_true, and_assoc] at h
    simp [h, eq_comm]
  · simp only [Bool.and_eq_true, and_assoc] at h
    simp [h]

theorem candidate_id {c : Config} {e : Eclic} {i : Nat} {q : Source} {d : Candidate} (h : candidate c e i q = some d) :
    d.id = i := by
  rw [(candidate_eq_some_iff.1 h).2]

/-- The search answers the greatest candidate of the sources it is given. -/
theorem greatest_winnerFrom (c : Config) (e : Eclic) (i : Nat) (qs : List Source) :
    Greatest (CandidateFrom c e i qs) (winnerFrom c e i qs) := by
  induction qs generalizing i with
  | nil => rintro d ⟨k, q, hq, -⟩; cases hq
  | cons q qs ih =>
    have first : Greatest (fun d => candidate c e i q = some d) (candidate c e i q) := by
      cases candidate c e i q with
      | none => exact fun _ h => nomatch h
      | some w => exact ⟨rfl, fun _ h => .inl (Option.some.inj h).symm⟩
    have apart : ∀ x y, candidate c e i q = some x → CandidateFrom c e (i + 1) qs y → x.id ≠ y.id := by
      rintro x y hx ⟨k, p, -, hy⟩
      rw [candidate_id hx, candidate_id hy]
      omega
    rw [funext fun d => propext (candidateFrom_cons c e i q qs d)]
    exact greatest_betterOf first (ih (i + 1)) apart

/-! ## The request -/

/-- What contends is what the search runs over. -/
theorem candidateFrom_iff_contends (c : Config) (e : Eclic) (d : Candidate) :
    CandidateFrom c e 0 e.sources d ↔ ∃ q, Contends c e d.id q ∧
      d.level = sourceLevel c e q ∧ d.priority = sourcePriority c e q ∧ d.shv = q.shv := by
  have entry (k : Nat) (q : Source) :
      e.sources[k]? = some q ↔ k < e.sources.length ∧ sourceAt e k = q := by
    rw [List.getElem?_eq_some_iff, sourceAt]
    constructor
    · rintro ⟨hk, rfl⟩
      exact ⟨hk, List.getD_eq_getElem _ _ hk⟩
    · rintro ⟨hk, rfl⟩
      exact ⟨hk, (List.getD_eq_getElem _ _ hk).symm⟩
  constructor
  · rintro ⟨k, q, hq, hd⟩
    rw [Nat.zero_add, candidate_eq_some_iff] at hd
    obtain ⟨takesPart, rfl⟩ := hd
    obtain ⟨hk, at_k⟩ := (entry k q).1 hq
    exact ⟨q, ⟨hk, at_k, takesPart⟩, rfl, rfl, rfl⟩
  · rintro ⟨q, ⟨hk, at_k, takesPart⟩, level, priority, shv⟩
    refine ⟨d.id, q, (entry _ q).2 ⟨hk, at_k⟩, ?_⟩
    rw [Nat.zero_add, candidate_eq_some_iff, ← level, ← priority, ← shv]
    exact ⟨takesPart, rfl⟩

/-- The request is the winner of the search, if its level is above `mth`. -/
theorem eclicRequest_eq_some_iff {c : Config} {e : Eclic} {r : Candidate} :
    eclicRequest c e = some r ↔ winnerFrom c e 0 e.sources = some r ∧ e.mth.toNat < r.level.toNat := by
  unfold eclicRequest
  cases winnerFrom c e 0 e.sources with
  | none => simp
  | some w =>
    simp only [BitVec.ult, decide_eq_true_eq]
    split_ifs with h
    · simp only [Option.some.injEq]
      exact ⟨fun hw => ⟨hw, hw ▸ h⟩, fun hw => hw.1⟩
    · simp only [Option.some.injEq, false_iff, not_and]
      rintro rfl
      exact h

/-- Without a winner above `mth` no contender is above it, since all come after the winner. -/
theorem eclicRequest_eq_none_iff (c : Config) (e : Eclic) :
    eclicRequest c e = none ↔ ∀ d, CandidateFrom c e 0 e.sources d → d.level.toNat ≤ e.mth.toNat := by
  have greatest := greatest_winnerFrom c e 0 e.sources
  rw [Option.eq_none_iff_forall_ne_some]
  simp only [ne_eq, eclicRequest_eq_some_iff]
  cases hw : winnerFrom c e 0 e.sources with
  | none =>
    rw [hw] at greatest
    exact ⟨fun _ d hd => absurd hd (greatest d), fun _ _ h => nomatch h.1⟩
  | some w =>
    rw [hw] at greatest
    obtain ⟨contends, others⟩ := greatest
    constructor
    · intro h d hd
      have level : w.level.toNat ≤ e.mth.toNat := Nat.not_lt.1 fun above => h w ⟨rfl, above⟩
      obtain rfl | below := others d hd
      · exact level
      · unfold Candidate.Below at below
        omega
    · rintro h v ⟨same, above⟩
      cases same
      exact absurd above (Nat.not_lt.2 (h w contends))

/-- Settles O22: the winner of the search is a contender, and every other contender, having another id, comes after
it. -/
theorem requestIsGreatestContender : Obligations.RequestIsGreatestContender := by
  intro c e
  have isCandidate {j : Nat} {p : Source} (h : Contends c e j p) := (candidateFrom_iff_contends c e
    { id := j, level := sourceLevel c e p, priority := sourcePriority c e p, shv := p.shv }).2 ⟨p, h, rfl, rfl, rfl⟩
  refine ⟨fun r hr => ?_, ?_⟩
  · obtain ⟨winner, above⟩ := eclicRequest_eq_some_iff.1 hr
    have greatest := greatest_winnerFrom c e 0 e.sources
    rw [winner] at greatest
    obtain ⟨contends, others⟩ := greatest
    obtain ⟨q, hq, level, priority, shv⟩ := (candidateFrom_iff_contends c e r).1 contends
    refine ⟨q, hq, level, priority, shv, above, fun j p hp hj => ?_⟩
    exact (others _ (isCandidate hp)).resolve_left fun same => hj (congrArg Candidate.id same)
  · rw [eclicRequest_eq_none_iff]
    constructor
    · exact fun h j p hp => h _ (isCandidate hp)
    · intro h d hd
      obtain ⟨q, hq, level, -, -⟩ := (candidateFrom_iff_contends c e d).1 hd
      rw [level]
      exact h _ q hq

end Sys2Proof.Machine
end
